-- ==== Sys2Proof/Word.lean ====
section
/-! DEFINITION. The data widths of the core: bytes of the Code Store and 16-bit words (00_scope R9, 10_state R20). -/

namespace Sys2Proof

/-- One byte of the Code Store; bit 7 is the most significant (00_scope R9). -/
abbrev Byte := BitVec 8

/-- A 16-bit quantity: a register pattern, a Code Store offset, a word operand (00_scope R9, R10). -/
abbrev Word := BitVec 16

/-- A register index: an operand byte; every value names a register (10_state R21). -/
abbrev RegIx := BitVec 8

end Sys2Proof
end

