-- ==== Sys2Proof/Config.lean ====
section
/-! DEFINITION. The constants and parameters of 00_scope R6. A parameter is a field of `Config`; a fixed row is a
constant. The machine's state carries one `Config` that no step changes, so a statement about every state holds for
every choice of the parameters. -/

namespace Sys2Proof

/-- The parameters of 00_scope R6 that do not come with the Code Store (CODE and CODE_LEN come with it). -/
structure Config where
  /-- `REG_RANDOM_SEED` (10_state R22): a convention of program and host; no rule of the core reads it. -/
  regRandomSeed : RegIx
  /-- `REG_LAST_KEYCHAR` (10_state R22): a convention of program and host; no rule of the core reads it. -/
  regLastKeychar : RegIx
  /-- `REG_SCROLL_Y`: the register `copyPage` sends (45_collaborator_ops R233). -/
  regScrollY : RegIx
  /-- `REG_PAUSE_SLICES`: the register `updateDisplay` sends (45_collaborator_ops R234). -/
  regPauseSlices : RegIx
  /-- `RESET_SCRIPT_SHORT_ON_INVERTED` (44_channel_ops R221). -/
  resetScriptShortOnInverted : Bool
  /-- `CONDJMP_RESERVED_TAKEN` (43_control_flow R205). -/
  condJmpReservedTaken : Bool
  deriving DecidableEq, Repr

/-- The spec's default of every parameter (00_scope R6). -/
def Config.default : Config where
  regRandomSeed := 0x3C
  regLastKeychar := 0xDA
  regScrollY := 0xF9
  regPauseSlices := 0xFF
  resetScriptShortOnInverted := false
  condJmpReservedTaken := false

/-- `MAX_OPCODE` (00_scope R6): the last number of the dispatch table. -/
def maxOpcode : Byte := 0x1A

/-- `SENTINEL_NONE` (00_scope R6): not scheduled, or no request. -/
def sentinelNone : Word := 0xFFFF

/-- `SENTINEL_KILL` (00_scope R6): the kill request, on the pending side only. -/
def sentinelKill : Word := 0xFFFE

/-- `Y_CLAMP` (00_scope R6). -/
def yClamp : Nat := 199

/-- `DEFAULT_ZOOM` (00_scope R6). -/
def defaultZoom : Word := 0x40

/-- `STACK_MAX_DEPTH` (00_scope R6). -/
def stackMaxDepth : Byte := 255

end Sys2Proof
end

