-- ==== Sys2Proof/Syntax.lean ====
section
/-! DEFINITION. The instructions: one constructor for each mnemonic of spec/opcode_table.json, operands in fetch order
(30_encoding R104), and the operand modes and comparison codes they use (30_encoding R97, R100). -/

namespace Sys2Proof

/-- The addressing modes of the resolver (30_encoding R97). -/
inductive Mode where
  | imm8 | imm16 | reg | imm8p | none | none2
  deriving DecidableEq, Repr

/-- A mode-selected operand with the bytes its mode fetched (30_encoding R97, R98). -/
inductive Operand where
  /-- `IMM8`: a byte, zero-extended. -/
  | imm8 (b : Byte)
  /-- `IMM16`: a word, high byte first. -/
  | imm16 (w : Word)
  /-- `REG`: the register the byte names. -/
  | reg (r : RegIx)
  /-- `IMM8P`: a byte plus 256; x operand of `drawPolygonS` only. -/
  | imm8p (b : Byte)
  /-- `NONE`: no byte, the value 0x40; zoom operand only. -/
  | none
  /-- `NONE2`: as `NONE`, and polygon bank 1; zoom operand only. -/
  | none2
  deriving DecidableEq, Repr

/-- The mode an operand has. -/
def Operand.mode : Operand → Mode
  | .imm8 _ => .imm8
  | .imm16 _ => .imm16
  | .reg _ => .reg
  | .imm8p _ => .imm8p
  | .none => .none
  | .none2 => .none2

/-- The comparison field of `condJmp`, codes 0 to 7 in order (30_encoding R100, 43_control_flow R205). -/
inductive Cmp where
  | eq | ne | gt | ge | lt | le | reserved6 | reserved7
  deriving DecidableEq, Repr

/-- The instructions of spec/opcode_table.json. -/
inductive Instr where
  /-- 42_register_ops R181. -/
  | movConst (reg : RegIx) (imm : Word)
  /-- 42_register_ops R182. -/
  | mov (dst src : RegIx)
  /-- 42_register_ops R183. -/
  | add (dst src : RegIx)
  /-- 42_register_ops R184. -/
  | addConst (reg : RegIx) (imm : Word)
  /-- 43_control_flow R201. -/
  | call (target : Word)
  /-- 43_control_flow R202. -/
  | ret
  /-- `break`, 44_channel_ops R222 (the name `break` is a word of Lean). -/
  | brk
  /-- 43_control_flow R200. -/
  | jmp (target : Word)
  /-- 44_channel_ops R220. -/
  | setVec (channel : Byte) (offset : Word)
  /-- 43_control_flow R203. -/
  | jnz (reg : RegIx) (target : Word)
  /-- 43_control_flow R204. -/
  | condJmp (cmp : Cmp) (reg : RegIx) (right : Operand) (target : Word)
  /-- 45_collaborator_ops R230. -/
  | setPalette (imm : Word)
  /-- 44_channel_ops R221; `mode` is `none` where the mode byte is not fetched
  (`RESET_SCRIPT_SHORT_ON_INVERTED` and an inverted range). -/
  | resetScript (first lastEncoded : Byte) (mode : Option Byte)
  /-- 45_collaborator_ops R231. -/
  | selectPage (page : Byte)
  /-- 45_collaborator_ops R232. -/
  | fillPage (page color : Byte)
  /-- 45_collaborator_ops R233. -/
  | copyPage (src dst : Byte)
  /-- 45_collaborator_ops R234. -/
  | updateDisplay (page : Byte)
  /-- 44_channel_ops R223. -/
  | halt
  /-- 45_collaborator_ops R236. -/
  | drawString (stringId : Word) (x y color : Byte)
  /-- 42_register_ops R185. -/
  | sub (dst src : RegIx)
  /-- 42_register_ops R186. -/
  | and (reg : RegIx) (imm : Word)
  /-- 42_register_ops R187. -/
  | or (reg : RegIx) (imm : Word)
  /-- 42_register_ops R188. -/
  | shl (reg : RegIx) (count : Word)
  /-- 42_register_ops R189. -/
  | shr (reg : RegIx) (count : Word)
  /-- 45_collaborator_ops R237. -/
  | playSound (res : Word) (freq vol chan : Byte)
  /-- 45_collaborator_ops R238. -/
  | updateMemList (ordinal : Word)
  /-- 45_collaborator_ops R239. -/
  | playMusic (res delay : Word) (pos : Byte)
  /-- 41_draw_polygon R171; `half` is the word before it is doubled. -/
  | drawPolygonS (half : Word) (x y zoom : Operand)
  /-- 41_draw_polygon R170; `half` is the 15-bit table offset before it is doubled. -/
  | drawPolygonL (half : BitVec 15) (x y : Byte)
  /-- 30_encoding R106: an opcode byte 0x1B..0x3F. -/
  | illegal (op : Byte)
  deriving DecidableEq, Repr

end Sys2Proof
end

