-- ==== Sys2Proof/Decode.lean ====
section
/-! DEFINITION. Decoding and encoding (30_encoding): the decoder is total on any bytes and answers the instruction with
the bytes after it, or `truncated` where a byte it needs is not there. The encoder stands after it. -/

namespace Sys2Proof

/-! ### Bytes and words -/

/-- The word of two bytes in fetch order: the first is bits 15:8 (20_memory R63, 30_encoding R95). This is the one
place that fixes the byte order. -/
def wordOf (first second : Byte) : Word := first ++ second

/-- Bits 15:8 of a word: its first byte in the Code Store. -/
def highByte (w : Word) : Byte := w.extractLsb' 8 8

/-- Bits 7:0 of a word: its second byte in the Code Store. -/
def lowByte (w : Word) : Byte := w.extractLsb' 0 8

/-! ### Fields -/

/-- x-operand mode of `drawPolygonS`, `op[5:4]` (30_encoding R101). -/
def xMode (op : Byte) : Mode :=
  match op.extractLsb' 4 2 with
  | 0#2 => .imm16
  | 1#2 => .reg
  | 2#2 => .imm8
  | _ => .imm8p

/-- y-operand mode of `drawPolygonS`, `op[3:2]` (30_encoding R102). -/
def yMode (op : Byte) : Mode :=
  match op.extractLsb' 2 2 with
  | 0#2 => .imm16
  | 1#2 => .reg
  | _ => .imm8

/-- Zoom-operand mode of `drawPolygonS`, `op[1:0]` (30_encoding R103). -/
def zoomMode (op : Byte) : Mode :=
  match op.extractLsb' 0 2 with
  | 0#2 => .none
  | 1#2 => .reg
  | 2#2 => .imm8
  | _ => .none2

/-- Right-operand mode of `condJmp`, `m[7:6]` (30_encoding R100). -/
def condMode (m : Byte) : Mode :=
  match m.extractLsb' 6 2 with
  | 0#2 => .imm8
  | 1#2 => .imm16
  | _ => .reg

/-- Comparison of `condJmp`, `m[2:0]` (30_encoding R100). -/
def condCmp (m : Byte) : Cmp :=
  match m.extractLsb' 0 3 with
  | 0#3 => .eq
  | 1#3 => .ne
  | 2#3 => .gt
  | 3#3 => .ge
  | 4#3 => .lt
  | 5#3 => .le
  | 6#3 => .reserved6
  | _ => .reserved7

/-- The last channel of `resetScript`: bits 5:0 of `lastEncoded` (44_channel_ops R221, 30_encoding R107). -/
def lastChannel (lastEncoded : Byte) : Nat := (lastEncoded.extractLsb' 0 6).toNat

/-- The range of `resetScript` is inverted: `last - first < 0` (44_channel_ops R221). -/
def rangeInverted (first lastEncoded : Byte) : Bool := lastChannel lastEncoded < first.toNat

/-- The mode byte of `resetScript` is not fetched (44_channel_ops R221, the parameter's other value). -/
def omitsMode (cfg : Config) (first lastEncoded : Byte) : Bool :=
  cfg.resetScriptShortOnInverted && rangeInverted first lastEncoded

/-! ### Decoding -/

/-- Why the decoder answers no instruction. -/
inductive DecodeError where
  /-- A byte of the instruction lies beyond the bytes given (30_encoding R93: "running off the end"). -/
  | truncated
  deriving DecidableEq, Repr

/-- What decoding some bytes after the opcode can give: an instruction and the bytes after it. -/
abbrev Parsed := Option (Instr × List Byte)

/-- Format `N` (30_encoding R92). -/
def formN (i : Instr) (bs : List Byte) : Parsed := some (i, bs)

/-- Format `B` (30_encoding R92). -/
def formB (k : Byte → Instr) : List Byte → Parsed
  | b :: bs => some (k b, bs)
  | _ => none

/-- Format `BB` (30_encoding R92). -/
def formBB (k : Byte → Byte → Instr) : List Byte → Parsed
  | b :: c :: bs => some (k b c, bs)
  | _ => none

/-- Format `W` (30_encoding R92). -/
def formW (k : Word → Instr) : List Byte → Parsed
  | h :: l :: bs => some (k (wordOf h l), bs)
  | _ => none

/-- Format `BW` (30_encoding R92). -/
def formBW (k : Byte → Word → Instr) : List Byte → Parsed
  | b :: h :: l :: bs => some (k b (wordOf h l), bs)
  | _ => none

/-- Format `BBB` of `resetScript` (30_encoding R92): the third byte is left where `omitsMode` says so. -/
def formReset (cfg : Config) : List Byte → Parsed
  | f :: l :: bs =>
    if omitsMode cfg f l then some (.resetScript f l none, bs)
    else match bs with
      | m :: bs => some (.resetScript f l (some m), bs)
      | [] => none
  | _ => none

/-- Format `WBBB` (30_encoding R92). -/
def formWBBB (k : Word → Byte → Byte → Byte → Instr) : List Byte → Parsed
  | h :: l :: b :: c :: d :: bs => some (k (wordOf h l) b c d, bs)
  | _ => none

/-- Format `WWB` (30_encoding R92). -/
def formWWB (k : Word → Word → Byte → Instr) : List Byte → Parsed
  | h :: l :: h' :: l' :: b :: bs => some (k (wordOf h l) (wordOf h' l') b, bs)
  | _ => none

/-- The bytes an operand of a mode takes (30_encoding R98). -/
def takeOperand : Mode → List Byte → Option (Operand × List Byte)
  | .imm8, b :: bs => some (.imm8 b, bs)
  | .imm16, h :: l :: bs => some (.imm16 (wordOf h l), bs)
  | .reg, r :: bs => some (.reg r, bs)
  | .imm8p, b :: bs => some (.imm8p b, bs)
  | .none, bs => some (.none, bs)
  | .none2, bs => some (.none2, bs)
  | _, _ => none

/-- Format `CJ` of `condJmp` (30_encoding R92, R100). -/
def formCJ : List Byte → Parsed
  | m :: r :: bs =>
    match takeOperand (condMode m) bs with
    | some (right, h :: l :: bs) => some (.condJmp (condCmp m) r right (wordOf h l), bs)
    | _ => none
  | _ => none

/-- Format `PL` of `drawPolygonL` (30_encoding R112): `op[6:0]` is bits 14:8 of the half-offset. -/
def formPL (op : Byte) : List Byte → Parsed
  | b :: x :: y :: bs => some (.drawPolygonL (op.extractLsb' 0 7 ++ b) x y, bs)
  | _ => none

/-- Format `PS` of `drawPolygonS` (30_encoding R92, R101 to R103): x, then y, then zoom (R96). -/
def formPS (op : Byte) : List Byte → Parsed
  | h :: l :: bs =>
    match takeOperand (xMode op) bs with
    | none => none
    | some (x, bs) =>
      match takeOperand (yMode op) bs with
      | none => none
      | some (y, bs) =>
        match takeOperand (zoomMode op) bs with
        | none => none
        | some (z, bs) => some (.drawPolygonS (wordOf h l) x y z, bs)
  | _ => none

/-- Tier 3, the dispatch table `OPMAP` (30_encoding R104); numbers above 0x1A are illegal (R106). -/
def decodeTable (cfg : Config) (op : Byte) : List Byte → Parsed :=
  match op with
  | 0x00#8 => formBW .movConst
  | 0x01#8 => formBB .mov
  | 0x02#8 => formBB .add
  | 0x03#8 => formBW .addConst
  | 0x04#8 => formW .call
  | 0x05#8 => formN .ret
  | 0x06#8 => formN .brk
  | 0x07#8 => formW .jmp
  | 0x08#8 => formBW .setVec
  | 0x09#8 => formBW .jnz
  | 0x0A#8 => formCJ
  | 0x0B#8 => formW .setPalette
  | 0x0C#8 => formReset cfg
  | 0x0D#8 => formB .selectPage
  | 0x0E#8 => formBB .fillPage
  | 0x0F#8 => formBB .copyPage
  | 0x10#8 => formB .updateDisplay
  | 0x11#8 => formN .halt
  | 0x12#8 => formWBBB .drawString
  | 0x13#8 => formBB .sub
  | 0x14#8 => formBW .and
  | 0x15#8 => formBW .or
  | 0x16#8 => formBW .shl
  | 0x17#8 => formBW .shr
  | 0x18#8 => formWBBB .playSound
  | 0x19#8 => formW .updateMemList
  | 0x1A#8 => formWWB .playMusic
  | _ => formN (.illegal op)

/-- The three-way split on the opcode byte, in the spec's order (30_encoding R91). -/
def decodeAfter (cfg : Config) (op : Byte) (bs : List Byte) : Parsed :=
  if op.getLsbD 7 then formPL op bs
  else if op.getLsbD 6 then formPS op bs
  else decodeTable cfg op bs

/-- The instruction at the front of some bytes and the bytes after it (30_encoding R91). -/
def decode (cfg : Config) : List Byte → Except DecodeError (Instr × List Byte)
  | [] => .error .truncated
  | op :: bs =>
    match decodeAfter cfg op bs with
    | some r => .ok r
    | none => .error .truncated

/-! ### Encoding -/

/-- `op[5:4]` for an x operand (30_encoding R101); `imm16`'s pattern for an operand no x can have. -/
def xBits : Operand → BitVec 2
  | .imm16 _ => 0
  | .reg _ => 1
  | .imm8 _ => 2
  | .imm8p _ => 3
  | .none => 0
  | .none2 => 0

/-- `op[3:2]` for a y operand (30_encoding R102, R110: `imm8` is written 10). -/
def yBits : Operand → BitVec 2
  | .imm16 _ => 0
  | .reg _ => 1
  | .imm8 _ => 2
  | .imm8p _ => 0
  | .none => 0
  | .none2 => 0

/-- `op[1:0]` for a zoom operand (30_encoding R103). -/
def zoomBits : Operand → BitVec 2
  | .none => 0
  | .reg _ => 1
  | .imm8 _ => 2
  | .none2 => 3
  | .imm16 _ => 0
  | .imm8p _ => 0

/-- `m[7:6]` for a right operand of `condJmp` (30_encoding R100, R110). -/
def condBits : Operand → BitVec 2
  | .imm8 _ => 0
  | .imm16 _ => 1
  | .reg _ => 2
  | .imm8p _ => 0
  | .none => 0
  | .none2 => 0

/-- `m[2:0]` of a comparison (30_encoding R100). -/
def Cmp.code : Cmp → BitVec 3
  | .eq => 0
  | .ne => 1
  | .gt => 2
  | .ge => 3
  | .lt => 4
  | .le => 5
  | .reserved6 => 6
  | .reserved7 => 7

/-- The two bytes of a word in the Code Store (30_encoding R95). -/
def wordBytes (w : Word) : List Byte := [highByte w, lowByte w]

/-- The bytes of an operand in the Code Store (30_encoding R98). -/
def Operand.bytes : Operand → List Byte
  | .imm8 b => [b]
  | .imm16 w => wordBytes w
  | .reg r => [r]
  | .imm8p b => [b]
  | .none => []
  | .none2 => []

/-- The bytes of an instruction, ignored bits zero (30_encoding R92, R104, R110). -/
def encode : Instr → List Byte
  | .movConst r w => 0x00 :: r :: wordBytes w
  | .mov d s => [0x01, d, s]
  | .add d s => [0x02, d, s]
  | .addConst r w => 0x03 :: r :: wordBytes w
  | .call t => 0x04 :: wordBytes t
  | .ret => [0x05]
  | .brk => [0x06]
  | .jmp t => 0x07 :: wordBytes t
  | .setVec c o => 0x08 :: c :: wordBytes o
  | .jnz r t => 0x09 :: r :: wordBytes t
  | .condJmp c r right t => 0x0A :: (condBits right ++ 0#3 ++ c.code) :: r :: (right.bytes ++ wordBytes t)
  | .setPalette w => 0x0B :: wordBytes w
  | .resetScript f l m => 0x0C :: f :: l :: m.toList
  | .selectPage p => [0x0D, p]
  | .fillPage p k => [0x0E, p, k]
  | .copyPage s d => [0x0F, s, d]
  | .updateDisplay p => [0x10, p]
  | .halt => [0x11]
  | .drawString w x y k => 0x12 :: (wordBytes w ++ [x, y, k])
  | .sub d s => [0x13, d, s]
  | .and r w => 0x14 :: r :: wordBytes w
  | .or r w => 0x15 :: r :: wordBytes w
  | .shl r n => 0x16 :: r :: wordBytes n
  | .shr r n => 0x17 :: r :: wordBytes n
  | .playSound w f v c => 0x18 :: (wordBytes w ++ [f, v, c])
  | .updateMemList n => 0x19 :: wordBytes n
  | .playMusic w d p => 0x1A :: (wordBytes w ++ wordBytes d ++ [p])
  | .drawPolygonS w x y z =>
    (1#2 ++ xBits x ++ yBits y ++ zoomBits z) :: (wordBytes w ++ x.bytes ++ y.bytes ++ z.bytes)
  | .drawPolygonL w x y => [1#1 ++ w.extractLsb' 8 7, w.extractLsb' 0 8, x, y]
  | .illegal op => [op]

/-- How many bytes an operand takes (30_encoding R93). -/
def Operand.size : Operand → Nat
  | .imm8 _ => 1
  | .imm16 _ => 2
  | .reg _ => 1
  | .imm8p _ => 1
  | .none => 0
  | .none2 => 0

/-- The total encoded length of an instruction, opcode byte included (30_encoding R93, R105). -/
def Instr.length : Instr → Nat
  | .movConst _ _ => 4
  | .mov _ _ => 3
  | .add _ _ => 3
  | .addConst _ _ => 4
  | .call _ => 3
  | .ret => 1
  | .brk => 1
  | .jmp _ => 3
  | .setVec _ _ => 4
  | .jnz _ _ => 4
  | .condJmp _ _ right _ => 5 + right.size
  | .setPalette _ => 3
  | .resetScript _ _ (some _) => 4
  | .resetScript _ _ none => 3
  | .selectPage _ => 2
  | .fillPage _ _ => 3
  | .copyPage _ _ => 3
  | .updateDisplay _ => 2
  | .halt => 1
  | .drawString _ _ _ _ => 6
  | .sub _ _ => 3
  | .and _ _ => 4
  | .or _ _ => 4
  | .shl _ _ => 4
  | .shr _ _ => 4
  | .playSound _ _ _ _ => 6
  | .updateMemList _ => 3
  | .playMusic _ _ _ => 6
  | .drawPolygonS _ x y z => 3 + x.size + y.size + z.size
  | .drawPolygonL _ _ _ => 4
  | .illegal _ => 1

/-- The longest instruction has 8 bytes (30_encoding R90). -/
def maxLength : Nat := 8

/-! ### The opcode table's numbering -/

/-- The bytes of an instruction whose bits are `w`, first byte least significant, zero above `nbits`. -/
def tableBytes (nbits w : Nat) : List Byte :=
  (List.range maxLength).map fun k => BitVec.ofNat 8 ((w % 2 ^ nbits) >>> (8 * k))

/-- The instruction the decoder reads from an instruction whose bits are `w`, at the default parameters. -/
def decodeTableWord (nbits w : Nat) : Option Instr :=
  match decode Config.default (tableBytes nbits w) with
  | .ok (i, _) => some i
  | .error _ => none

end Sys2Proof
end

