-- ==== Sys2Proof/Machine/Bank.lean ====
section
/-! DEFINITION. A bank: a fixed number of like cells (the Register File, the Channel Table, the Call Stack), held as a
list with the proof of its length, so that every index below the size reads a cell and states can be compared. -/

namespace Sys2Proof.Machine

/-- `n` cells of type `α`. -/
structure Bank (α : Type) (n : Nat) where
  cells : List α
  size : cells.length = n
  deriving DecidableEq, Repr

/-- `n` cells that all hold `a`. -/
def Bank.replicate {α : Type} (n : Nat) (a : α) : Bank α n := ⟨List.replicate n a, List.length_replicate⟩

/-- The bank whose cell `i` is `f i`. -/
def Bank.ofFn {α : Type} {n : Nat} (f : Fin n → α) : Bank α n := ⟨List.ofFn f, List.length_ofFn⟩

/-- Cell `i`. -/
def Bank.get {α : Type} {n : Nat} (b : Bank α n) (i : Fin n) : α := b.cells[i.val]'(Nat.lt_of_lt_of_eq i.isLt b.size.symm)

/-- The bank with cell `i` replaced. -/
def Bank.set {α : Type} {n : Nat} (b : Bank α n) (i : Fin n) (a : α) : Bank α n :=
  ⟨b.cells.set i.val a, (List.length_set ..).trans b.size⟩

/-- Every cell changed by `f`. -/
def Bank.map {α : Type} {n : Nat} (f : α → α) (b : Bank α n) : Bank α n :=
  ⟨b.cells.map f, (List.length_map ..).trans b.size⟩

end Sys2Proof.Machine
end

