-- ==== Sys2Proof/Machine/State.lean ====
section
/-! DEFINITION. The state of the core (10_state), the Code Store it reads, what the host does at its ports, and the
state after reset (10_state R50). -/

namespace Sys2Proof.Machine

/-! ### Control state -/

/-- The phases of the frame scheduler (10_state R36). -/
inductive Phase where
  /-- `IDLE`: no command in progress; the host port is open. -/
  | idle
  /-- `SELECT`: inside `RUN`, about to consider channel `cur` or to finish. -/
  | select
  /-- `EXEC`: inside a turn of channel `cur`, between instructions. -/
  | exec
  /-- `WAIT_FLIP`: an `updateDisplay` has issued `FLIP` and waits for `flip_done`. -/
  | waitFlip
  /-- `FAULTED`: a fatal fault was raised; only `RESET` leaves it. -/
  | faulted
  deriving DecidableEq, Repr

/-- How the last `RUN` ended (10_state R39). -/
inductive RunStatus where
  /-- `NONE`: no `RUN` since reset. -/
  | noRun
  /-- `DONE`: all 64 channels considered. -/
  | done
  /-- `ABORTED`: quit detected. -/
  | aborted
  /-- `FAULT`. -/
  | fault
  deriving DecidableEq, Repr

/-- A fault's `kind` and its `info` together (60_exceptions R250). -/
inductive FaultCause where
  /-- Code 1; the opcode byte (60_exceptions R251). -/
  | invalidOpcode (op : Byte)
  /-- Code 2; the offending `pc` (60_exceptions R252). -/
  | bounds (cursor : Word)
  /-- Code 3; the call target (60_exceptions R253). -/
  | stackOverflow (target : Word)
  /-- Code 4; no info (60_exceptions R254). -/
  | stackUnderflow
  /-- Code 5; the channel byte (60_exceptions R256). -/
  | channelIndex (channel : Byte)
  deriving DecidableEq, Repr

/-- The fault record `{kind, channel, offset, info}` (10_state R38); `cause` is `kind` with `info`. -/
structure FaultRecord where
  cause : FaultCause
  /-- The value of `cur` at the fault. -/
  channel : Fin 65
  /-- The `pc` of the faulting instruction's opcode byte. -/
  offset : Word
  deriving DecidableEq, Repr

/-- One row of the Channel Table (10_state R25). -/
structure Channel where
  /-- `cur_off`: where execution resumes this frame; 0xFFFF is not scheduled. -/
  curOff : Word
  /-- `pend_off`: a rescheduling request; 0xFFFF is none, 0xFFFE is kill. -/
  pendOff : Word
  /-- `cur_paused`. -/
  curPaused : Bool
  /-- `pend_paused`. -/
  pendPaused : Bool
  deriving DecidableEq, Repr

/-- A channel as `RESET` leaves it (10_state R50): not scheduled, nothing requested, not paused. -/
def Channel.unscheduled : Channel := ⟨sentinelNone, sentinelNone, false, false⟩

/-! ### Ports -/

/-- The command records of the command port (10_state R45). -/
inductive Command where
  /-- `x` and `y` are signed, `zoom` unsigned; `bank` is the one bank bit. -/
  | drawPolygon (tableOffset x y zoom : Word) (bank : Bool)
  | selectPage (index : Byte)
  | fillPage (page color : Byte)
  /-- `verticalScroll` is signed. -/
  | copyPage (src dst : Byte) (verticalScroll : Word)
  /-- `pause` is signed. -/
  | flip (page : Byte) (pause : Word)
  | setPalette (index : Byte)
  | drawString (color x y : Byte) (stringId : Word)
  | bankLoad (ordinal : Word)
  | playSound (res : Word) (freq vol chan : Byte)
  | playMusic (res delay : Word) (pos : Byte)
  deriving DecidableEq, Repr

/-- The host commands (40_scheduler R130). -/
inductive HostCommand where
  /-- 70_reset_and_hazards R290. -/
  | reset
  /-- 40_scheduler R145: `CODE` as the list of its bytes, `CODE_LEN` as its length. -/
  | codeInstall (bytes : List Byte)
  /-- 40_scheduler R132. -/
  | restartAt (entry : Word)
  /-- 40_scheduler R133. -/
  | setup
  /-- 40_scheduler R134. -/
  | run
  /-- 40_scheduler R142. -/
  | frame
  /-- 40_scheduler R143. -/
  | regWrite (reg : RegIx) (value : Word)
  /-- 40_scheduler R143. -/
  | regRead (reg : RegIx)
  /-- 40_scheduler R144. -/
  | stateRead
  /-- 40_scheduler R144. -/
  | stateLoad (regs : Bank Word 256) (table : Bank Channel 64)
  deriving DecidableEq, Repr

/-- What the core answers to a reading host command (40_scheduler R143, R144). -/
inductive HostReply where
  | regRead (value : Word)
  /-- `fault` is given in phase `FAULTED` only. -/
  | stateRead (regs : Bank Word 256) (table : Bank Channel 64) (fault : Option FaultRecord)
  deriving DecidableEq, Repr

/-- What the host drives during one step (10_state R46, R47, R48). DESIGN CHOICE (assumption 1): the host's behaviour is a
list of these in State, one read by each step. -/
structure HostInput where
  /-- A command offered at this step. -/
  command : Option HostCommand
  /-- The level of `quit` at this step. -/
  quit : Bool
  /-- The event `flip_done` at this step. -/
  flipDone : Bool
  deriving DecidableEq, Repr

/-- The host does nothing: no command, `quit` low, no `flip_done`. -/
def HostInput.quiet : HostInput := ⟨none, false, false⟩

/-! ### Code Store -/

/-- Bytes by offset: strictly rising offsets, no byte that an unlisted offset reads as. -/
abbrev Memory := List Host.Cell

/-- The Code Store (20_memory R60, R61): `len` is `CODE_LEN`, `bytes` the bytes below it. -/
structure CodeStore where
  len : Word
  bytes : Memory
  deriving DecidableEq, Repr

/-- No Code Store installed: `CODE_LEN` is 0 (40_scheduler R145). -/
def CodeStore.empty : CodeStore := ⟨0, []⟩

/-! ### State -/

/-- The state of the core, with the Code Store, the parameters and the host's inputs its steps read. -/
structure State where
  /-- The Register File (10_state R20). -/
  regs : Bank Word 256
  /-- The Channel Table (10_state R25). -/
  channels : Bank Channel 64
  /-- The Call Stack (10_state R31). -/
  stk : Bank Word 256
  /-- The call-stack pointer (10_state R32). -/
  sp : Byte
  /-- The cursor (10_state R33). -/
  pc : Word
  /-- The execution-halted flag (10_state R35). -/
  halted : Bool
  /-- The scheduler's control state (10_state R36). -/
  phase : Phase
  /-- The channel the scheduler is at, 7 bits, 0..64 (10_state R37). -/
  cur : Fin 65
  /-- The fault record (10_state R38). -/
  fault : Option FaultRecord
  /-- How the last `RUN` ended (10_state R39). -/
  status : RunStatus
  /-- The command port's stream, oldest first (10_state R44). -/
  commands : List Command
  /-- The Code Store (10_state R42; a parameter of the steps, owned by the host). -/
  code : CodeStore
  /-- The parameters of 00_scope R6; no step changes them (assumption 7). -/
  config : Config
  /-- The model's own: what the host drives at the coming steps (assumption 1). -/
  host : List HostInput
  /-- The model's own: the core's answers to the host, oldest first (assumption 8). -/
  replies : List HostReply
  deriving DecidableEq, Repr

/-- The core right after power-on (10_state R50, 70_reset_and_hazards R290): no Code Store, no host input.
DESIGN CHOICE (assumption 6): the unspecified `stk` is 0. -/
def State.reset : State where
  regs := Bank.replicate 256 0
  channels := Bank.replicate 64 Channel.unscheduled
  stk := Bank.replicate 256 0
  sp := 0
  pc := 0
  halted := false
  phase := .idle
  cur := 0
  fault := none
  status := .noRun
  commands := []
  code := CodeStore.empty
  config := Config.default
  host := []
  replies := []

/-! ### How a step can stop -/

/-- Why the model stops where the machine has no next state. The five faults of the spec are not here: taking one is a
next state in phase `FAULTED` (60_exceptions R255). -/
inductive Fault where
  /-- Raised at a turn's end or abort in a state with `cur = 64` in phase `EXEC`: the Channel Table has no row 64 to write.
  No run reaches such a state. Safe: nothing can be proved of what would follow. -/
  | noSuchChannel
  deriving DecidableEq, Repr

/-- Why the model gives no meaning. -/
inductive Refusal where
  /-- Raised by `exec` for an instruction without a meaning. Safe. No arm uses it. -/
  | notModelled (mnemonic : String)
  /-- Raised by `CODE_INSTALL` of more than 0xFFFF bytes, which the spec refuses (93_implementation_defined U17). Safe. -/
  | codeStoreTooLong
  deriving DecidableEq, Repr

/-- What a meaning, a host command or a step answers. -/
abbrev Result := Host.Outcome State Fault Refusal

end Sys2Proof.Machine
end

