-- ==== Sys2Proof/Machine/Ops.lean ====
section
/-! DEFINITION. The named operations over the Code Store, the registers, the channels, the stack, the cursor and the
ports, and taking a fault. Every read and write of the state by a meaning goes through these. -/

namespace Sys2Proof.Machine

/-! ### Code Store -/

/-- What the list holds at an offset; an unlisted offset reads as 0. The 0 is how the list is written, not a claim
about the hardware: below `CODE_LEN` every byte is the host's, above it none is read (assumption 5). -/
def Memory.read : Memory → Nat → Byte
  | [], _ => 0
  | (k, v) :: m, a => if k = a then v else Memory.read m a

/-- The list with one byte changed, in canonical form: writing 0 removes the entry. -/
def Memory.write : Memory → Nat → Byte → Memory
  | [], a, b => if b = 0 then [] else [(a, b)]
  | (k, v) :: m, a, b =>
    if a < k then (if b = 0 then (k, v) :: m else (a, b) :: (k, v) :: m)
    else if a = k then (if b = 0 then m else (a, b) :: m)
    else (k, v) :: Memory.write m a b

/-- Consecutive bytes from an offset on, written in order. -/
def Memory.writeAll : Memory → Nat → List Byte → Memory
  | m, _, [] => m
  | m, a, b :: bs => Memory.writeAll (Memory.write m a b) (a + 1) bs

/-- Offsets rise strictly from `lo` on, and no entry is 0. -/
def Memory.wfFrom : Nat → Memory → Bool
  | _, [] => true
  | lo, (k, v) :: m => decide (lo ≤ k) && decide (v ≠ 0) && Memory.wfFrom (k + 1) m

/-- The canonical form: equal contents are equal lists. -/
def Memory.wf (m : Memory) : Bool := Memory.wfFrom 0 m

/-- The list that holds `bytes` from offset `a` on. -/
def Memory.ofBytes : Nat → List Byte → Memory
  | _, [] => []
  | a, b :: bs => if b = 0 then Memory.ofBytes (a + 1) bs else (a, b) :: Memory.ofBytes (a + 1) bs

/-- The Code Store of some bytes: `CODE_LEN` is their number (40_scheduler R145). -/
def CodeStore.ofBytes (bytes : List Byte) : CodeStore := ⟨BitVec.ofNat 16 bytes.length, Memory.ofBytes 0 bytes⟩

/-- The byte at an offset; none at or beyond `CODE_LEN` (00_scope R12, 30_encoding R94). -/
def CodeStore.read (c : CodeStore) (a : Nat) : Option Byte :=
  if a < c.len.toNat then some (Memory.read c.bytes a) else none

/-- The canonical form of a Code Store: its list's, with every listed offset below `CODE_LEN`. -/
def CodeStore.wf (c : CodeStore) : Bool := Memory.wf c.bytes && c.bytes.all fun e => decide (e.1 < c.len.toNat)

/-- The Code Store with bytes placed from an offset on, made longer if they need it. No step does this: it stands for
the host's loading of an instruction (assumption 11). -/
def CodeStore.place (c : CodeStore) (a : Nat) (bs : List Byte) : CodeStore :=
  ⟨BitVec.ofNat 16 (max c.len.toNat (a + bs.length)), Memory.writeAll c.bytes a bs⟩

/-! ### Registers -/

/-- `x[r]` as its 16-bit pattern (00_scope R11). -/
def State.reg (s : State) (r : RegIx) : Word := s.regs.get r.toFin

/-- `x[r]` as the integer it stands for (10_state R20). -/
def State.int (s : State) (r : RegIx) : Int := (s.reg r).toInt

/-- `x[r] <- v`; no register is hardwired (10_state R21). -/
def State.setReg (s : State) (r : RegIx) (v : Word) : State := { s with regs := s.regs.set r.toFin v }

/-! ### Cursor -/

/-- The cursor moved past an instruction it points at (10_state R34). -/
def State.after (i : Instr) (s : State) : State := { s with pc := s.pc + BitVec.ofNat 16 i.length }

/-- `pc <- t`; no target is checked (43_control_flow R207). -/
def State.jump (s : State) (t : Word) : State := { s with pc := t }

/-! ### Call stack -/

/-- Slot `k` of the call stack. -/
def State.slot (s : State) (k : Byte) : Word := s.stk.get k.toFin

/-- Pushes the cursor as a return offset (43_control_flow R201). -/
def State.pushReturn (s : State) : State := { s with stk := s.stk.set s.sp.toFin s.pc, sp := s.sp + 1 }

/-- Pops a return offset into the cursor; the slot keeps its value (43_control_flow R202). -/
def State.popReturn (s : State) : State := { s with sp := s.sp - 1, pc := s.slot (s.sp - 1) }

/-! ### Channels -/

/-- Row `c` of the Channel Table. -/
def State.channel (s : State) (c : Fin 64) : Channel := s.channels.get c

/-- Row `c` changed by `f`. -/
def State.setChannel (s : State) (c : Fin 64) (ch : Channel) : State := { s with channels := s.channels.set c ch }

/-- Rows `lo` to `hi`, both included, changed by `f` (44_channel_ops R221, 42_register_ops R192). -/
def State.setChannels (s : State) (lo hi : Nat) (f : Channel → Channel) : State :=
  { s with channels := Bank.ofFn fun c =>
      if lo ≤ c.val ∧ c.val ≤ hi then f (s.channels.get c) else s.channels.get c }

/-! ### Command port -/

/-- `emit`: one record at the end of the stream (00_scope R13, 20_memory R71). -/
def State.emit (s : State) (c : Command) : State := { s with commands := s.commands ++ [c] }

/-! ### Faults -/

/-- `raise`: taking a fault (60_exceptions R255). It applies to the state before the step, whose `pc` is the faulting
instruction's opcode offset: nothing changes but the record, `status` and `phase`. -/
def State.raise (s : State) (cause : FaultCause) : State :=
  { s with fault := some ⟨cause, s.cur, s.pc⟩, status := .fault, phase := .faulted }

/-- `RESET` (70_reset_and_hazards R290), the one way out of a fault (60_exceptions R258): every piece of the core's
state at its reset value. The Code Store stays installed (R290; assumption 4), and what is not state of the core stays. -/
def State.resetCore (s : State) : State :=
  { State.reset with code := s.code, config := s.config, host := s.host, replies := s.replies }

/-- The numeric code of a fault's kind (60_exceptions R250). -/
def FaultCause.code : FaultCause → Nat
  | .invalidOpcode _ => 1
  | .bounds _ => 2
  | .stackOverflow _ => 3
  | .stackUnderflow => 4
  | .channelIndex _ => 5

/-- The `info` of a fault, a byte zero-extended (60_exceptions R250). -/
def FaultCause.info : FaultCause → Option Word
  | .invalidOpcode op => some (op.setWidth 16)
  | .bounds a => some a
  | .stackOverflow t => some t
  | .stackUnderflow => none
  | .channelIndex c => some (c.setWidth 16)

end Sys2Proof.Machine
end

