-- ==== Sys2Proof/Machine/Operands.lean ====
section
/-! DEFINITION. Operand values: the conversions of 00_scope R10 and the resolver (30_encoding R98, R99). -/

namespace Sys2Proof.Machine

/-- `wrap16`: the 16-bit pattern congruent to an integer modulo 65536 (00_scope R10). -/
def wrap16 (n : Int) : Word := BitVec.ofInt 16 n

/-- `zext_16`: a byte immediate is never negative (00_scope R10, 30_encoding R99). -/
def zext16 (b : Byte) : Word := b.setWidth 16

/-- `resolve`: the value of a mode-selected operand (30_encoding R98). -/
def State.resolve (s : State) : Operand → Word
  | .imm8 b => zext16 b
  | .imm16 w => w
  | .reg r => s.reg r
  | .imm8p b => zext16 b + 256
  | .none => defaultZoom
  | .none2 => defaultZoom

/-- The polygon-table offset of a half-offset: doubled modulo 65536 (41_draw_polygon R170, R171). -/
def doubled (half : Word) : Word := BitVec.ofNat 16 (half.toNat * 2)

/-- `h = y - 199` of `drawPolygonL`, 0 where `y` is not beyond the clamp (41_draw_polygon R170). -/
def clampExcess (y : Byte) : Nat := y.toNat - yClamp

/-- The `x` that `drawPolygonL` sends: the excess of `y` is added (41_draw_polygon R170). -/
def clampedX (x y : Byte) : Word := BitVec.ofNat 16 (x.toNat + clampExcess y)

/-- The `y` that `drawPolygonL` sends (41_draw_polygon R170). -/
def clampedY (y : Byte) : Word := BitVec.ofNat 16 (min y.toNat yClamp)

/-- `(u16of(v) * 2^n) mod 65536`, 0 for every `n >= 16` (42_register_ops R188). -/
def shiftLeft16 (v n : Word) : Word := if n.toNat < 16 then v <<< n.toNat else 0

/-- `floor(u16of(v) / 2^n)`, the logical shift, 0 for every `n >= 16` (42_register_ops R189). -/
def shiftRight16 (v n : Word) : Word := if n.toNat < 16 then v >>> n.toNat else 0

end Sys2Proof.Machine
end

