-- ==== Sys2Proof/Machine/Flags.lean ====
section
/-! DEFINITION. The core has no condition codes (10_state R40). Its flags are `halted` and the pause bits; comparisons
leave no flag. This file holds the comparison of `condJmp` and the writes of `halted` and of the pending fields. -/

namespace Sys2Proof.Machine

/-- `compare` on the integers of two registers' patterns (43_control_flow R205); the reserved codes answer the
parameter `CONDJMP_RESERVED_TAKEN`. -/
def compareTaken (cfg : Config) (c : Cmp) (left right : Int) : Bool :=
  match c with
  | .eq => left = right
  | .ne => left ≠ right
  | .gt => left > right
  | .ge => left ≥ right
  | .lt => left < right
  | .le => left ≤ right
  | .reserved6 => cfg.condJmpReservedTaken
  | .reserved7 => cfg.condJmpReservedTaken

/-- `halted <- 1` (10_state R35). -/
def State.setHalted (s : State) : State := { s with halted := true }

/-- A request in `pend_off` (10_state R27). -/
def Channel.request (ch : Channel) (o : Word) : Channel := { ch with pendOff := o }

/-- The level in `pend_paused` (10_state R28). -/
def Channel.pause (ch : Channel) (p : Bool) : Channel := { ch with pendPaused := p }

end Sys2Proof.Machine
end

