-- ==== Sys2Proof/Machine/ChannelOps.lean ====
section
/-! DEFINITION. The channel-control instructions (44_channel_ops). They write pending fields and `halted` only. -/

namespace Sys2Proof.Machine

/-- 44_channel_ops R220: a request for channel `c`, the fault `ChannelIndex` where there is no such row. -/
def execSetVec (c : Byte) (o : Word) (s : State) : Result :=
  if h : c.toNat < 64 then
    .next ((s.after (.setVec c o)).setChannel ⟨c.toNat, h⟩ ((s.channel ⟨c.toNat, h⟩).request o))
  else .next (s.raise (.channelIndex c))

/-- What one mode of `resetScript` does to a channel of the range (44_channel_ops R221): 2 requests a kill, 0 and 1
set the pause level, any other mode does nothing. -/
def resetMode (m : Byte) (ch : Channel) : Channel :=
  if m = 2 then ch.request sentinelKill
  else if m.toNat < 2 then ch.pause (m = 1)
  else ch

/-- 44_channel_ops R221: an inverted range is a tolerated no-op. -/
def execResetScript (first lastEncoded : Byte) (mode : Option Byte) (s : State) : Result :=
  let s' := s.after (.resetScript first lastEncoded mode)
  if rangeInverted first lastEncoded then .next s'
  else
    match mode with
    | some m => .next (s'.setChannels first.toNat (lastChannel lastEncoded) (resetMode m))
    | none => .next s'

/-- 44_channel_ops R222: the cursor stays after the `break`. -/
def execBrk (s : State) : Result := .next (s.after .brk).setHalted

/-- 44_channel_ops R223: `pc <- 0xFFFF`. -/
def execHalt (s : State) : Result := .next (s.jump sentinelNone).setHalted

end Sys2Proof.Machine
end

