-- ==== Sys2Proof/Machine/CollaboratorOps.lean ====
section
/-! DEFINITION. The instructions that send one command to a collaborator (45_collaborator_ops, 41_draw_polygon). They
write no register and no channel field; only `updateDisplay` waits (R240). -/

namespace Sys2Proof.Machine

/-- 45_collaborator_ops R230: the index is the high byte. -/
def execSetPalette (w : Word) (s : State) : Result :=
  .next ((s.after (.setPalette w)).emit (.setPalette (highByte w)))

/-- 45_collaborator_ops R231. -/
def execSelectPage (p : Byte) (s : State) : Result := .next ((s.after (.selectPage p)).emit (.selectPage p))

/-- 45_collaborator_ops R232. -/
def execFillPage (p k : Byte) (s : State) : Result := .next ((s.after (.fillPage p k)).emit (.fillPage p k))

/-- 45_collaborator_ops R233: the scroll is `x[REG_SCROLL_Y]`. -/
def execCopyPage (src dst : Byte) (s : State) : Result :=
  .next ((s.after (.copyPage src dst)).emit (.copyPage src dst (s.reg s.config.regScrollY)))

/-- 45_collaborator_ops R234, the issue step: the pause is `x[REG_PAUSE_SLICES]`; the core waits for `flip_done`. -/
def execUpdateDisplay (p : Byte) (s : State) : Result :=
  .next { (s.after (.updateDisplay p)).emit (.flip p (s.reg s.config.regPauseSlices)) with phase := .waitFlip }

/-- 45_collaborator_ops R236. -/
def execDrawString (w : Word) (x y k : Byte) (s : State) : Result :=
  .next ((s.after (.drawString w x y k)).emit (.drawString k x y w))

/-- 45_collaborator_ops R237. -/
def execPlaySound (w : Word) (f v c : Byte) (s : State) : Result :=
  .next ((s.after (.playSound w f v c)).emit (.playSound w f v c))

/-- 45_collaborator_ops R238. -/
def execUpdateMemList (n : Word) (s : State) : Result := .next ((s.after (.updateMemList n)).emit (.bankLoad n))

/-- 45_collaborator_ops R239. -/
def execPlayMusic (w d : Word) (p : Byte) (s : State) : Result :=
  .next ((s.after (.playMusic w d p)).emit (.playMusic w d p))

/-- 41_draw_polygon R170: `y` is clamped to 199, the excess goes to `x`; zoom 0x40, bank 0. -/
def execDrawPolygonL (half : BitVec 15) (x y : Byte) (s : State) : Result :=
  .next ((s.after (.drawPolygonL half x y)).emit
    (.drawPolygon (doubled (half.setWidth 16)) (clampedX x y) (clampedY y) defaultZoom false))

/-- 41_draw_polygon R171: no clamp; the bank is 1 for zoom mode `NONE2`. -/
def execDrawPolygonS (half : Word) (x y z : Operand) (s : State) : Result :=
  .next ((s.after (.drawPolygonS half x y z)).emit
    (.drawPolygon (doubled half) (s.resolve x) (s.resolve y) (s.resolve z) (z = .none2)))

end Sys2Proof.Machine
end

