-- ==== Sys2Proof/Machine/ControlFlow.lean ====
section
/-! DEFINITION. The control-transfer instructions (43_control_flow) and the illegal opcode bytes (30_encoding R106). -/

namespace Sys2Proof.Machine

/-- 43_control_flow R200: `pc <- t`. -/
def execJmp (t : Word) (s : State) : Result := .next (s.jump t)

/-- 43_control_flow R201: the overflow test comes before the push. -/
def execCall (t : Word) (s : State) : Result :=
  if s.sp = stackMaxDepth then .next (s.raise (.stackOverflow t))
  else .next ((s.after (.call t)).pushReturn.jump t)

/-- 43_control_flow R202. -/
def execRet (s : State) : Result :=
  if s.sp = 0 then .next (s.raise .stackUnderflow) else .next s.popReturn

/-- 43_control_flow R203: the decrement is always written, the jump taken where it is not zero. -/
def execJnz (r : RegIx) (t : Word) (s : State) : Result :=
  let v := wrap16 (s.int r - 1)
  let s' := (s.after (.jnz r t)).setReg r v
  .next (if v ≠ 0 then s'.jump t else s')

/-- 43_control_flow R204: the left operand is always a register. -/
def execCondJmp (c : Cmp) (r : RegIx) (right : Operand) (t : Word) (s : State) : Result :=
  let s' := s.after (.condJmp c r right t)
  .next (if compareTaken s.config c (s.int r) (s.resolve right).toInt then s'.jump t else s')

/-- 30_encoding R106, 60_exceptions R251: the fault `InvalidOpcode`. -/
def execIllegal (op : Byte) (s : State) : Result := .next (s.raise (.invalidOpcode op))

end Sys2Proof.Machine
end

