-- ==== Sys2Proof/Machine/RegisterOps.lean ====
section
/-! DEFINITION. The register instructions (42_register_ops). In every meaning the state's `pc` points at the opcode
byte; operands are read before the destination is written (R180). -/

namespace Sys2Proof.Machine

/-- 42_register_ops R181: `x[r] <- s16of(w)`. -/
def execMovConst (r : RegIx) (w : Word) (s : State) : Result := .next ((s.after (.movConst r w)).setReg r w)

/-- 42_register_ops R182: `x[d] <- x[s]`. -/
def execMov (d e : RegIx) (s : State) : Result := .next ((s.after (.mov d e)).setReg d (s.reg e))

/-- 42_register_ops R183: `x[d] <- wrap16(x[d] + x[s])`. -/
def execAdd (d e : RegIx) (s : State) : Result := .next ((s.after (.add d e)).setReg d (wrap16 (s.int d + s.int e)))

/-- 42_register_ops R184: `x[r] <- wrap16(x[r] + s16of(w))`. -/
def execAddConst (r : RegIx) (w : Word) (s : State) : Result :=
  .next ((s.after (.addConst r w)).setReg r (wrap16 (s.int r + w.toInt)))

/-- 42_register_ops R185: `x[d] <- wrap16(x[d] - x[s])`. -/
def execSub (d e : RegIx) (s : State) : Result := .next ((s.after (.sub d e)).setReg d (wrap16 (s.int d - s.int e)))

/-- 42_register_ops R186: bitwise AND of the patterns. -/
def execAnd (r : RegIx) (w : Word) (s : State) : Result := .next ((s.after (.and r w)).setReg r (s.reg r &&& w))

/-- 42_register_ops R187: bitwise OR of the patterns. -/
def execOr (r : RegIx) (w : Word) (s : State) : Result := .next ((s.after (.or r w)).setReg r (s.reg r ||| w))

/-- 42_register_ops R188. -/
def execShl (r : RegIx) (n : Word) (s : State) : Result :=
  .next ((s.after (.shl r n)).setReg r (shiftLeft16 (s.reg r) n))

/-- 42_register_ops R189. -/
def execShr (r : RegIx) (n : Word) (s : State) : Result :=
  .next ((s.after (.shr r n)).setReg r (shiftRight16 (s.reg r) n))

end Sys2Proof.Machine
end

