-- ==== Sys2Proof/Machine/Dispatch.lean ====
section
/-! DEFINITION. The dispatch of an instruction to its meaning (30_encoding R91, R104). -/

namespace Sys2Proof.Machine

def exec (i : Instr) (s : State) : Host.Outcome State Fault Refusal :=
  match i with
  | .movConst r w => Sys2Proof.Machine.execMovConst r w s
  | .mov d e => Sys2Proof.Machine.execMov d e s
  | .add d e => Sys2Proof.Machine.execAdd d e s
  | .addConst r w => Sys2Proof.Machine.execAddConst r w s
  | .call t => Sys2Proof.Machine.execCall t s
  | .ret => Sys2Proof.Machine.execRet s
  | .brk => Sys2Proof.Machine.execBrk s
  | .jmp t => Sys2Proof.Machine.execJmp t s
  | .setVec c o => Sys2Proof.Machine.execSetVec c o s
  | .jnz r t => Sys2Proof.Machine.execJnz r t s
  | .condJmp c r right t => Sys2Proof.Machine.execCondJmp c r right t s
  | .setPalette w => Sys2Proof.Machine.execSetPalette w s
  | .resetScript first lastEncoded mode => Sys2Proof.Machine.execResetScript first lastEncoded mode s
  | .selectPage p => Sys2Proof.Machine.execSelectPage p s
  | .fillPage p k => Sys2Proof.Machine.execFillPage p k s
  | .copyPage src dst => Sys2Proof.Machine.execCopyPage src dst s
  | .updateDisplay p => Sys2Proof.Machine.execUpdateDisplay p s
  | .halt => Sys2Proof.Machine.execHalt s
  | .drawString w x y k => Sys2Proof.Machine.execDrawString w x y k s
  | .sub d e => Sys2Proof.Machine.execSub d e s
  | .and r w => Sys2Proof.Machine.execAnd r w s
  | .or r w => Sys2Proof.Machine.execOr r w s
  | .shl r n => Sys2Proof.Machine.execShl r n s
  | .shr r n => Sys2Proof.Machine.execShr r n s
  | .playSound w f v c => Sys2Proof.Machine.execPlaySound w f v c s
  | .updateMemList n => Sys2Proof.Machine.execUpdateMemList n s
  | .playMusic w d p => Sys2Proof.Machine.execPlayMusic w d p s
  | .drawPolygonS half x y z => Sys2Proof.Machine.execDrawPolygonS half x y z s
  | .drawPolygonL half x y => Sys2Proof.Machine.execDrawPolygonL half x y s
  | .illegal op => Sys2Proof.Machine.execIllegal op s

end Sys2Proof.Machine
end

