-- ==== Sys2Proof/Machine/Fetch.lean ====
section
/-! DEFINITION. Fetching an instruction's bytes at the cursor (30_encoding R94, R95) and decoding them. -/

namespace Sys2Proof.Machine

/-- The bytes the next `n` fetches from offset `a` give, cut at `CODE_LEN` (30_encoding R94). -/
def CodeStore.window (c : CodeStore) (a : Nat) : Nat → List Byte
  | 0 => []
  | n + 1 =>
    match c.read a with
    | some b => b :: c.window (a + 1) n
    | none => []

/-- The bytes at the cursor, as many as the longest instruction has. -/
def State.codeWindow (s : State) : List Byte := s.code.window s.pc.toNat maxLength

/-- The instruction at the cursor, or the cursor of the first fetch at or beyond `CODE_LEN` (60_exceptions R252). -/
def State.fetch (s : State) : Except Word Instr :=
  match decode s.config s.codeWindow with
  | .ok (i, _) => .ok i
  | .error .truncated => .error (s.pc + BitVec.ofNat 16 s.codeWindow.length)

/-- Where a loaded instruction is put: at the cursor, or at 0 where the longest instruction would not fit below 0xFFFF. -/
def State.loadPoint (s : State) : Word := if s.pc.toNat + maxLength ≤ 0xFFFF then s.pc else 0

/-- The state about to fetch `bytes`: placed at the cursor, inside a turn, the next input quiet (assumption 11). -/
def State.aboutToFetch (s : State) (bytes : List Byte) : State :=
  { s with
    code := s.code.place s.loadPoint.toNat bytes
    pc := s.loadPoint
    phase := .exec
    halted := false
    host := .quiet :: s.host }

end Sys2Proof.Machine
end

