-- ==== Sys2Proof/Machine/Scheduler.lean ====
section
/-! DEFINITION. The frame scheduler (40_scheduler): `SETUP`, `RESTART_AT`, the start of a `RUN`, channel selection, and
the three ways a turn is left. -/

namespace Sys2Proof.Machine

/-- `SETUP` on one row (40_scheduler R133); `pend_paused` stays. -/
def Channel.commit (ch : Channel) : Channel :=
  { ch with
    curPaused := ch.pendPaused
    curOff :=
      if ch.pendOff = sentinelNone then ch.curOff
      else if ch.pendOff = sentinelKill then sentinelNone
      else ch.pendOff
    pendOff := sentinelNone }

/-- `SETUP` (40_scheduler R133). -/
def State.setup (s : State) : State := { s with channels := s.channels.map Channel.commit }

/-- `RESTART_AT(e)` (40_scheduler R132): every row as after `RESET`, then channel 0 at `e`. -/
def State.restartAt (s : State) (e : Word) : State :=
  { s with channels :=
      (Bank.replicate 64 Channel.unscheduled).set 0 { Channel.unscheduled with curOff := e } }

/-- The acceptance of `RUN` (40_scheduler R134). -/
def State.startRun (s : State) : State := { s with cur := 0, phase := .select }

/-- A channel that `RUN` gives a turn (40_scheduler R135). -/
def Channel.runnable (ch : Channel) : Bool := !ch.curPaused && decide (ch.curOff ≠ sentinelNone)

/-- The start of a turn at an offset (40_scheduler R136); no bounds check. -/
def State.startTurn (s : State) (o : Word) : State := { s with pc := o, sp := 0, halted := false, phase := .exec }

/-- The end of a `RUN` with a status (40_scheduler R135, R140, R141). -/
def State.endRun (s : State) (st : RunStatus) : State := { s with status := st, phase := .idle }

/-- The next channel index; 64 is past the last (10_state R37). -/
def nextChannel (c : Fin 64) : Fin 65 := ⟨c.val + 1, Nat.succ_lt_succ c.isLt⟩

/-- The `SELECT` step (40_scheduler R135). -/
def State.selectStep (s : State) (quit : Bool) : State :=
  if h : s.cur.val < 64 then
    if quit then s.endRun .aborted
    else if (s.channel ⟨s.cur.val, h⟩).runnable then s.startTurn (s.channel ⟨s.cur.val, h⟩).curOff
    else { s with cur := nextChannel ⟨s.cur.val, h⟩ }
  else s.endRun .done

/-- `ch[c].cur_off <- pc` (40_scheduler R138, R140). -/
def State.persist (s : State) (c : Fin 64) : State := s.setChannel c { s.channel c with curOff := s.pc }

/-- The end of a turn (40_scheduler R138). -/
def State.endTurn (s : State) : Result :=
  if h : s.cur.val < 64 then
    .next { s.persist ⟨s.cur.val, h⟩ with cur := nextChannel ⟨s.cur.val, h⟩, phase := .select }
  else .fault .noSuchChannel

/-- Quit sampled inside a turn (40_scheduler R137, R140): the cursor is persisted, the `RUN` ends. -/
def State.abortTurn (s : State) : Result :=
  if h : s.cur.val < 64 then .next ((s.persist ⟨s.cur.val, h⟩).endRun .aborted)
  else .fault .noSuchChannel

/-- `WAIT_FLIP` (45_collaborator_ops R235): only `flip_done` leaves it, and changes nothing else. -/
def State.waitStep (s : State) (flipDone : Bool) : State := if flipDone then { s with phase := .exec } else s

end Sys2Proof.Machine
end

