-- ==== Sys2Proof/Machine/HostPort.lean ====
section
/-! DEFINITION. The host commands: in which phases each is accepted, and what accepting it does (40_scheduler R130). -/

namespace Sys2Proof.Machine

/-- The phases a command is accepted in (40_scheduler R130). -/
def HostCommand.acceptedIn (c : HostCommand) (p : Phase) : Bool :=
  match c with
  | .reset => true
  | .codeInstall _ => p = .idle
  | .restartAt _ => p = .idle
  | .setup => p = .idle
  | .run => p = .idle
  | .frame => p = .idle
  | .regWrite _ _ => p = .idle
  | .regRead _ => p = .idle ∨ p = .faulted
  | .stateRead => p = .idle ∨ p = .faulted
  | .stateLoad _ _ => p = .idle

/-- `CODE_INSTALL` (40_scheduler R145): at most 0xFFFF bytes, a longer store is refused (93_implementation_defined U17). -/
def State.installCode (s : State) (bytes : List Byte) : Result :=
  if bytes.length ≤ 0xFFFF then .next { s with code := CodeStore.ofBytes bytes } else .refused .codeStoreTooLong

/-- An answer to the host (assumption 8). -/
def State.reply (s : State) (r : HostReply) : State := { s with replies := s.replies ++ [r] }

/-- `STATE_READ` (40_scheduler R144): the fault record is part of it in `FAULTED` only. -/
def State.readState (s : State) : State :=
  s.reply (.stateRead s.regs s.channels (if s.phase = .faulted then s.fault else none))

/-- `STATE_LOAD` (40_scheduler R144). -/
def State.loadState (s : State) (regs : Bank Word 256) (table : Bank Channel 64) : State :=
  { s with regs := regs, channels := table }

/-- The acceptance of a command. -/
def State.perform (s : State) (c : HostCommand) : Result :=
  match c with
  | .reset => .next s.resetCore
  | .codeInstall bytes => s.installCode bytes
  | .restartAt e => .next (s.restartAt e)
  | .setup => .next s.setup
  | .run => .next s.startRun
  | .frame => .next s.setup.startRun
  | .regWrite r v => .next (s.setReg r v)
  | .regRead r => .next (s.reply (.regRead (s.reg r)))
  | .stateRead => .next s.readState
  | .stateLoad regs table => .next (s.loadState regs table)

end Sys2Proof.Machine
end

