-- ==== Sys2Proof/Machine/Turn.lean ====
section
/-! DEFINITION. The core's own step in each phase (40_scheduler R135, R137, 45_collaborator_ops R235), and the step
with the host's input. -/

namespace Sys2Proof.Machine

/-- One whole instruction (40_scheduler R137): fetch, decode, execute; a fetch beyond `CODE_LEN` is the fault `Bounds`. -/
def State.instrStep (s : State) : Result :=
  match s.fetch with
  | .ok i => exec i s
  | .error a => .next (s.raise (.bounds a))

/-- The `EXEC` step (40_scheduler R137), in the order of 60_exceptions R257. -/
def State.execStep (s : State) (quit : Bool) : Result :=
  if s.halted then s.endTurn
  else if quit then s.abortTurn
  else s.instrStep

/-- The core's own step. In `IDLE` and `FAULTED` it does nothing until the host acts (60_exceptions R258, R268):
the state stays (assumption 2). -/
def State.coreStep (s : State) (quit flipDone : Bool) : Result :=
  match s.phase with
  | .idle => .next s
  | .select => .next (s.selectStep quit)
  | .exec => s.execStep quit
  | .waitFlip => .next (s.waitStep flipDone)
  | .faulted => .next s

/-- What the host drives at this step; a host that has nothing more to say is quiet (assumption 1). -/
def State.input (s : State) : HostInput := s.host.headD .quiet

/-- The state once this step's input is taken. -/
def State.tookInput (s : State) : State := { s with host := s.host.tail }

/-- The command this step accepts, if any (40_scheduler R130). One offered in another phase has no effect (assumption 3). -/
def State.acceptedCommand (s : State) : Option HostCommand :=
  s.input.command.filter fun c => c.acceptedIn s.phase

/-- A step of the machine: an accepted command, or the core's own step (00_scope R8). -/
def State.stepOnce (s : State) : Result :=
  match s.acceptedCommand with
  | some c => s.tookInput.perform c
  | none => s.tookInput.coreStep s.input.quit s.input.flipDone

end Sys2Proof.Machine
end

