-- ==== Sys2Proof/Machine/Step.lean ====
section
/-! DEFINITION. The step of the machine, and the state about to run a given instruction word. -/

namespace Sys2Proof.Machine

/-- One step (00_scope R8). -/
def step (s : State) : Host.Outcome State Fault Refusal := s.stepOnce

/-- `s` with the instruction whose bits are `w` where the next step fetches it (assumption 11). -/
def State.withFetchWord (s : State) (nbits w : Nat) : State := s.aboutToFetch (tableBytes nbits w)

end Sys2Proof.Machine
end

