-- ==== Sys2Proof/WellFormed.lean ====
section
/-! DEFINITION. Which instructions an encoding can spell: each operand has a mode its field can select, and the other
fields the values their bytes can give (30_encoding R100 to R106, 44_channel_ops R221). -/

namespace Sys2Proof

/-- A right operand of `condJmp` (30_encoding R100). -/
def Operand.fitsCond (o : Operand) : Bool := o.mode ∈ [Mode.imm8, .imm16, .reg]

/-- An x operand of `drawPolygonS` (30_encoding R101). -/
def Operand.fitsX (o : Operand) : Bool := o.mode ∈ [Mode.imm16, .reg, .imm8, .imm8p]

/-- A y operand of `drawPolygonS` (30_encoding R102). -/
def Operand.fitsY (o : Operand) : Bool := o.mode ∈ [Mode.imm16, .reg, .imm8]

/-- A zoom operand of `drawPolygonS` (30_encoding R103). -/
def Operand.fitsZoom (o : Operand) : Bool := o.mode ∈ [Mode.none, .reg, .imm8, .none2]

/-- The illegal opcode bytes 0x1B..0x3F (30_encoding R106). -/
def isIllegalOp (op : Byte) : Bool := maxOpcode < op && op < 0x40

/-- The instructions that some bytes decode to under the parameters `cfg`. -/
def Instr.wellFormed (cfg : Config) : Instr → Bool
  | .movConst _ _ => true
  | .mov _ _ => true
  | .add _ _ => true
  | .addConst _ _ => true
  | .call _ => true
  | .ret => true
  | .brk => true
  | .jmp _ => true
  | .setVec _ _ => true
  | .jnz _ _ => true
  | .condJmp _ _ right _ => right.fitsCond
  | .setPalette _ => true
  | .resetScript f l m => m.isNone == omitsMode cfg f l
  | .selectPage _ => true
  | .fillPage _ _ => true
  | .copyPage _ _ => true
  | .updateDisplay _ => true
  | .halt => true
  | .drawString _ _ _ _ => true
  | .sub _ _ => true
  | .and _ _ => true
  | .or _ _ => true
  | .shl _ _ => true
  | .shr _ _ => true
  | .playSound _ _ _ _ => true
  | .updateMemList _ => true
  | .playMusic _ _ _ => true
  | .drawPolygonS _ x y z => x.fitsX && y.fitsY && z.fitsZoom
  | .drawPolygonL _ _ _ => true
  | .illegal op => isIllegalOp op

end Sys2Proof
end

