-- ==== Sys2Proof/Safety.lean ====
section
/-! DEFINITION. The terms claims are stated in: the parts of a state and what keeps them, when a step runs an
instruction, how an instruction is spelled in the Code Store, and the invariant of the machine. -/

namespace Sys2Proof.Machine

/-! ### Parts of a state -/

/-- The parts a state is made of. -/
inductive Part where
  | regs | channels | stk | sp | pc | halted | phase | cur | fault | status | commands | memory | config | host | replies
  deriving DecidableEq, Repr

/-- `t` has the same part as `s`; registers, channels, stack slots and bytes are compared one by one, as they are read. -/
def Keeps (p : Part) (s t : State) : Prop :=
  match p with
  | .regs => ∀ r, t.reg r = s.reg r
  | .channels => ∀ c, t.channel c = s.channel c
  | .stk => ∀ k, t.slot k = s.slot k
  | .sp => t.sp = s.sp
  | .pc => t.pc = s.pc
  | .halted => t.halted = s.halted
  | .phase => t.phase = s.phase
  | .cur => t.cur = s.cur
  | .fault => t.fault = s.fault
  | .status => t.status = s.status
  | .commands => t.commands = s.commands
  | .memory => t.code.len = s.code.len ∧ ∀ a, t.code.read a = s.code.read a
  | .config => t.config = s.config
  | .host => t.host = s.host
  | .replies => t.replies = s.replies

/-- Every part but the named ones is kept. -/
def KeepsAllBut (ps : List Part) (s t : State) : Prop := ∀ p, p ∉ ps → Keeps p s t

/-! ### Running an instruction -/

/-- This step fetches and runs an instruction (40_scheduler R137): phase `EXEC`, not halted, no command accepted, `quit`
low. -/
def State.ready (s : State) : Prop :=
  s.phase = .exec ∧ s.halted = false ∧ s.acceptedCommand = none ∧ s.input.quit = false

/-- `bytes` are an encoding of `i`: they decode to it wherever they stand, they are as many as its length, and a Code
Store that ends inside them takes `Bounds` at the first byte that is missing. -/
def Spells (i : Instr) (bytes : List Byte) : Prop :=
  i.length = bytes.length ∧
  (∀ cfg rest, i.wellFormed cfg = true → decode cfg (bytes ++ rest) = .ok (i, rest)) ∧
  (∀ s : State, ∀ k : Nat, s.ready → i.wellFormed s.config = true → k < bytes.length → s.codeWindow = bytes.take k →
    step s = .next (s.tookInput.raise (.bounds (s.pc + BitVec.ofNat 16 k))))

/-- The register an instruction writes, if any (10_state R23). -/
def destination : Instr → Option RegIx
  | .movConst r _ => some r
  | .mov d _ => some d
  | .add d _ => some d
  | .addConst r _ => some r
  | .call _ => none
  | .ret => none
  | .brk => none
  | .jmp _ => none
  | .setVec _ _ => none
  | .jnz r _ => some r
  | .condJmp _ _ _ _ => none
  | .setPalette _ => none
  | .resetScript _ _ _ => none
  | .selectPage _ => none
  | .fillPage _ _ => none
  | .copyPage _ _ => none
  | .updateDisplay _ => none
  | .halt => none
  | .drawString _ _ _ _ => none
  | .sub d _ => some d
  | .and r _ => some r
  | .or r _ => some r
  | .shl r _ => some r
  | .shr r _ => some r
  | .playSound _ _ _ _ => none
  | .updateMemList _ => none
  | .playMusic _ _ _ => none
  | .drawPolygonS _ _ _ _ => none
  | .drawPolygonL _ _ _ => none
  | .illegal _ => none

/-- A state with the pending half of the Channel Table blanked: what a `RUN` may depend on (10_state R29). -/
def State.blankPending (s : State) : State :=
  { s with channels := s.channels.map fun ch => { ch with pendOff := sentinelNone, pendPaused := false } }

/-- Two outcomes are of one kind, and two next states agree but for the pending half of the Channel Table. -/
def AgreeButPending : Result → Result → Prop
  | .next t, .next t' => t.blankPending = t'.blankPending
  | .fault f, .fault f' => f = f'
  | .refused r, .refused r' => r = r'
  | _, _ => False

/-- The integer a mode-selected operand stands for, as 30_encoding R98 and R99 give it. -/
def operandInt (s : State) : Operand → Int
  | .imm8 b => b.toNat
  | .imm16 w => w.toInt
  | .reg r => s.int r
  | .imm8p b => b.toNat + 256
  | .none => 64
  | .none2 => 64

/-- Executing one instruction again and again, `n` times. -/
def repeatExec (i : Instr) : Nat → State → Result
  | 0, s => .next s
  | n + 1, s =>
    match exec i s with
    | .next t => repeatExec i n t
    | .fault f => .fault f
    | .refused r => .refused r

/-! ### The invariant -/

/-- What the state shows of the reason a fault was taken for (60_exceptions R250 to R256). -/
def FaultCause.justified (cause : FaultCause) (s : State) : Prop :=
  match cause with
  | .invalidOpcode op => isIllegalOp op = true ∧ s.code.read s.pc.toNat = some op
  | .bounds a => s.code.len.toNat ≤ a.toNat ∧ s.pc.toNat ≤ a.toNat
  | .stackOverflow _ => s.sp = stackMaxDepth
  | .stackUnderflow => s.sp = 0
  | .channelIndex c => 64 ≤ c.toNat

/-- The invariant of the machine: the Code Store is canonical; a turn belongs to a channel of the table; only an
unhalted turn waits; `FAULTED`, the status `FAULT` and a fault record go together; the record names the frozen `cur`
and `pc`, and the state shows its cause. -/
structure State.Inv (s : State) : Prop where
  memory : s.code.wf = true
  turn : s.phase = .exec ∨ s.phase = .waitFlip → s.cur.val < 64
  waiting : s.phase = .waitFlip → s.halted = false
  status : s.phase = .faulted ↔ s.status = .fault
  faulted : s.phase = .faulted ↔ s.fault.isSome = true
  record : ∀ f, s.fault = some f →
    f.channel = s.cur ∧ f.channel.val < 64 ∧ f.offset = s.pc ∧ f.cause.justified s

end Sys2Proof.Machine
end

