-- ==== Sys2Proof/Certificates/Slice0/Obligations.lean ====
section
/-! DEFINITION. The statements for the provers. `KeepsAllBut ps s t` is the frame: every part of the state outside `ps`
is as before, memory read byte by byte. `Spells i bytes` says that the bytes decode to `i`, are as many as its length, and
that a Code Store ending inside them takes `Bounds` at the missing byte. A name in a docstring such as D18 is the
spec's own decision (92_eei_decisions) that the statement follows. Where a statement lets the part `host` change, the step
takes its input slot, which is the model's own (assumption 1). -/

open Sys2Proof Sys2Proof.Machine

/-! ### Encoding -/

/-- Every well-formed instruction, at every value of its operands, is what its encoding decodes to, whatever bytes
follow. -/
def Obligations.DecodeOfEncodeGivesTheInstruction : Prop :=
  ∀ (cfg : Config) (i : Instr) (rest : List Byte), i.wellFormed cfg = true → decode cfg (encode i ++ rest) = .ok (i, rest)

/-- What the decoder answers is well formed, 1 to 8 bytes long, and took exactly its length from the front. -/
def Obligations.DecodedInstructionIsWellFormedAndMeasured : Prop :=
  ∀ (cfg : Config) (bs rest : List Byte) (i : Instr), decode cfg bs = .ok (i, rest) →
    i.wellFormed cfg = true ∧ ∃ taken, bs = taken ++ rest ∧ taken.length = i.length ∧ 1 ≤ i.length ∧ i.length ≤ 8

/-- The length finder of 30_encoding R93 (marked there as derived), at the default of the short-form parameter. -/
def Obligations.LengthFollowsTheOpcodeByte : Prop :=
  ∀ (cfg : Config) (op : Byte) (bs rest : List Byte) (i : Instr), cfg.resetScriptShortOnInverted = false →
    decode cfg (op :: bs) = .ok (i, rest) →
    i.length =
      if 128 ≤ op.toNat then 4
      else if 64 ≤ op.toNat then
        3 + (if op.toNat / 16 % 4 = 0 then 2 else 1) + (if op.toNat / 4 % 4 = 0 then 2 else 1) +
          (if op.toNat % 4 = 1 ∨ op.toNat % 4 = 2 then 1 else 0)
      else if op.toNat = 0x0A then (if (bs.headD 0).toNat / 64 = 1 then 7 else 6)
      else [4, 3, 3, 4, 3, 1, 1, 3, 4, 4, 0, 3, 4, 2, 3, 3, 2, 1, 6, 3, 4, 4, 4, 4, 6, 3, 6].getD op.toNat 1

/-- 30_encoding R106, 60_exceptions R251: the opcode bytes 0x1B..0x3F, and no others, are illegal; they take
`InvalidOpcode` and no operand is fetched. -/
def Obligations.IllegalOpcodesTakeInvalidOpcode : Prop :=
  (∀ (cfg : Config) (op : Byte) (bs : List Byte), 0x1B ≤ op.toNat → op.toNat ≤ 0x3F →
    decode cfg (op :: bs) = .ok (.illegal op, bs)) ∧
  (∀ (cfg : Config) (op op' : Byte) (bs rest : List Byte), decode cfg (op :: bs) = .ok (.illegal op', rest) →
    0x1B ≤ op.toNat ∧ op.toNat ≤ 0x3F) ∧
  (∀ (op : Byte) (s : State), exec (.illegal op) s = .next (s.raise (.invalidOpcode op))) ∧
  (∀ (op : Byte) (s : State), s.ready → 0x1B ≤ op.toNat → op.toNat ≤ 0x3F → s.code.read s.pc.toNat = some op →
    step s = .next (s.tookInput.raise (.invalidOpcode op)))

/-- The byte order (D1), the mode fields (D4, D17) and the comparison numbering (D4) of 30_encoding R95, R100 to R103, R107,
on numbers; the encoder's comparison codes follow the same numbering. -/
def Obligations.FieldsAreReadFromTheirBits : Prop :=
  (∀ h l : Byte, (wordOf h l).toNat = h.toNat * 256 + l.toNat) ∧
  (∀ op : Byte, xMode op = [Mode.imm16, .reg, .imm8, .imm8p].getD (op.toNat / 16 % 4) .none) ∧
  (∀ op : Byte, yMode op = [Mode.imm16, .reg, .imm8, .imm8].getD (op.toNat / 4 % 4) .none) ∧
  (∀ op : Byte, zoomMode op = [Mode.none, .reg, .imm8, .none2].getD (op.toNat % 4) .none) ∧
  (∀ m : Byte, condMode m = [Mode.imm8, .imm16, .reg, .reg].getD (m.toNat / 64) .none) ∧
  (∀ m : Byte, condCmp m = [Cmp.eq, .ne, .gt, .ge, .lt, .le, .reserved6, .reserved7].getD (m.toNat % 8) .reserved7) ∧
  (∀ m : Byte, (condCmp m).code.toNat = m.toNat % 8) ∧
  (∀ le : Byte, lastChannel le = le.toNat % 64)

/-- One word of each family, written out from 30_encoding, decodes to its instruction (opcode numbers: D2). -/
def Obligations.SampleWordsDecode : Prop :=
  decode Config.default [0x13, 0x04, 0x05] = .ok (.sub 4 5, []) ∧
  decode Config.default [0x0A, 0x42, 0x07, 0xFF, 0x38, 0x01, 0x00] = .ok (.condJmp .gt 7 (.imm16 0xFF38) 0x0100, []) ∧
  decode Config.default [0x08, 0x01, 0x00, 0x05] = .ok (.setVec 1 0x0005, []) ∧
  decode Config.default [0x12, 0x01, 0x90, 0x14, 0x64, 0x0F] = .ok (.drawString 0x0190 20 100 15, []) ∧
  decode Config.default [0x80, 0x10, 0x64, 0xC8] = .ok (.drawPolygonL 0x0010 100 200, []) ∧
  decode Config.default [0x55, 0x12, 0x34, 0x01, 0x02, 0x03] = .ok (.drawPolygonS 0x1234 (.reg 1) (.reg 2) (.reg 3), [])

/-! ### Fetch and faults -/

/-- A ready step whose bytes at the cursor decode to `i` is `exec` of `i`, once the step's host input is taken (the
model's own field, assumption 1); the bytes decoded are those of the Code Store from the cursor on. -/
def Obligations.StepRunsTheDecodedInstruction : Prop :=
  ∀ (s : State) (i : Instr) (rest : List Byte), s.ready → decode s.config s.codeWindow = .ok (i, rest) →
    step s = exec i s.tookInput ∧ KeepsAllBut [.host] s s.tookInput ∧ s.tookInput.host = s.host.tail ∧
    ∀ k, k < 8 → s.codeWindow[k]? = s.code.read (s.pc.toNat + k)

/-- 60_exceptions R252: a fetch at or beyond `CODE_LEN`, of the opcode byte or of an operand byte, takes `Bounds` with
the cursor of that fetch. -/
def Obligations.FetchBeyondTheCodeTakesBounds : Prop :=
  (∀ s : State, s.ready → s.code.len.toNat ≤ s.pc.toNat → step s = .next (s.tookInput.raise (.bounds s.pc))) ∧
  (∀ s : State, s.ready → decode s.config s.codeWindow = .error .truncated →
    ∃ a : Word, step s = .next (s.tookInput.raise (.bounds a)) ∧ a.toNat = max s.pc.toNat s.code.len.toNat)

/-- Taking a fault (60_exceptions R250, R255; precision is D11, the codes are D12): the record, `status` and `phase` are
written and nothing else. -/
def Obligations.RaiseRecordsAndKeepsTheRest : Prop :=
  (∀ (s : State) (cause : FaultCause), (s.raise cause).fault = some ⟨cause, s.cur, s.pc⟩ ∧
    (s.raise cause).status = .fault ∧ (s.raise cause).phase = .faulted ∧
    KeepsAllBut [.fault, .status, .phase] s (s.raise cause)) ∧
  (∀ op a t c, [FaultCause.invalidOpcode op, .bounds a, .stackOverflow t, .stackUnderflow, .channelIndex c].map
    FaultCause.code = [1, 2, 3, 4, 5]) ∧
  (∀ op : Byte, ∃ w : Word, (FaultCause.invalidOpcode op).info = some w ∧ w.toNat = op.toNat) ∧
  (∀ a : Word, (FaultCause.bounds a).info = some a) ∧ (∀ t : Word, (FaultCause.stackOverflow t).info = some t) ∧
  FaultCause.stackUnderflow.info = none ∧
  (∀ c : Byte, ∃ w : Word, (FaultCause.channelIndex c).info = some w ∧ w.toNat = c.toNat)

/-- Every step that enters `FAULTED` is an instruction step, is exactly a raise on the state before it, and that state
shows the cause (60_exceptions R250 to R257; D9, D10, D11, D18). -/
def Obligations.EveryFaultHasItsCause : Prop :=
  ∀ s t : State, step s = .next t → s.phase ≠ .faulted → t.phase = .faulted →
    s.ready ∧ ∃ cause, t = s.tookInput.raise cause ∧ cause.justified s

/-- 60_exceptions R258: in `FAULTED` only the two reads and `RESET` are accepted, and only `RESET` leaves it; the fault
record stays. That a step without `RESET` is a next state that stays is the model's choice (assumption 2), and so is the list
the reads answer in (assumption 8). -/
def Obligations.FaultedIsLeftOnlyByReset : Prop :=
  (∀ c : HostCommand, c.acceptedIn .faulted = true ↔ c = .reset ∨ (∃ r, c = .regRead r) ∨ c = .stateRead) ∧
  (∀ s : State, s.phase = .faulted → ∃ t, step s = .next t ∧
    ((s.acceptedCommand = some .reset ∧ t.phase = .idle ∧ t.fault = none) ∨
     (s.acceptedCommand ≠ some .reset ∧ t.phase = .faulted ∧ t.fault = s.fault ∧ KeepsAllBut [.host, .replies] s t)))

/-! ### Register instructions -/

/-- 42_register_ops R181. -/
def Obligations.MovConstWritesTheImmediate : Prop :=
  ∀ (r h l : Byte) (s : State), Spells (.movConst r (wordOf h l)) [0x00, r, h, l] ∧
    ∃ t, exec (.movConst r (wordOf h l)) s = .next t ∧ t.int r = Int.bmod (h.toNat * 256 + l.toNat) 65536 ∧
      (∀ q, q ≠ r → t.reg q = s.reg q) ∧ t.pc = s.pc + 4 ∧ KeepsAllBut [.regs, .pc] s t

/-- 42_register_ops R182. -/
def Obligations.MovCopiesTheSource : Prop :=
  ∀ (d e : Byte) (s : State), Spells (.mov d e) [0x01, d, e] ∧
    ∃ t, exec (.mov d e) s = .next t ∧ t.int d = s.int e ∧
      (∀ q, q ≠ d → t.reg q = s.reg q) ∧ t.pc = s.pc + 3 ∧ KeepsAllBut [.regs, .pc] s t

/-- 42_register_ops R183: the exact sum, wrapped to 16 bits; source and destination may be one register. -/
def Obligations.AddWrapsTheExactSum : Prop :=
  ∀ (d e : Byte) (s : State), Spells (.add d e) [0x02, d, e] ∧
    ∃ t, exec (.add d e) s = .next t ∧ t.int d = Int.bmod (s.int d + s.int e) 65536 ∧
      (∀ q, q ≠ d → t.reg q = s.reg q) ∧ t.pc = s.pc + 3 ∧ KeepsAllBut [.regs, .pc] s t

/-- 42_register_ops R184; it makes no difference whether the immediate is read as signed or unsigned. -/
def Obligations.AddConstWrapsTheExactSum : Prop :=
  ∀ (r h l : Byte) (s : State), Spells (.addConst r (wordOf h l)) [0x03, r, h, l] ∧
    ∃ t, exec (.addConst r (wordOf h l)) s = .next t ∧
      t.int r = Int.bmod (s.int r + Int.bmod (h.toNat * 256 + l.toNat) 65536) 65536 ∧
      t.int r = Int.bmod (s.int r + (h.toNat * 256 + l.toNat)) 65536 ∧
      (∀ q, q ≠ r → t.reg q = s.reg q) ∧ t.pc = s.pc + 4 ∧ KeepsAllBut [.regs, .pc] s t

/-- 42_register_ops R185 (layout: D3). -/
def Obligations.SubWrapsTheExactDifference : Prop :=
  ∀ (d e : Byte) (s : State), Spells (.sub d e) [0x13, d, e] ∧
    ∃ t, exec (.sub d e) s = .next t ∧ t.int d = Int.bmod (s.int d - s.int e) 65536 ∧
      (∀ q, q ≠ d → t.reg q = s.reg q) ∧ t.pc = s.pc + 3 ∧ KeepsAllBut [.regs, .pc] s t

/-- 42_register_ops R186, R187 (layouts: D3): the operations on the unsigned patterns. -/
def Obligations.AndOrActOnThePatterns : Prop :=
  ∀ (r h l : Byte) (s : State),
    Spells (.and r (wordOf h l)) [0x14, r, h, l] ∧ Spells (.or r (wordOf h l)) [0x15, r, h, l] ∧
    (∃ t, exec (.and r (wordOf h l)) s = .next t ∧
      (t.reg r).toNat = (s.reg r).toNat &&& (h.toNat * 256 + l.toNat) ∧
      (∀ q, q ≠ r → t.reg q = s.reg q) ∧ t.pc = s.pc + 4 ∧ KeepsAllBut [.regs, .pc] s t) ∧
    (∃ t, exec (.or r (wordOf h l)) s = .next t ∧
      (t.reg r).toNat = (s.reg r).toNat ||| (h.toNat * 256 + l.toNat) ∧
      (∀ q, q ≠ r → t.reg q = s.reg q) ∧ t.pc = s.pc + 4 ∧ KeepsAllBut [.regs, .pc] s t)

/-- 42_register_ops R188 (layout: D3; counts of 16 and more: D22). -/
def Obligations.ShlMultipliesThePattern : Prop :=
  ∀ (r h l : Byte) (s : State), Spells (.shl r (wordOf h l)) [0x16, r, h, l] ∧
    ∃ t, exec (.shl r (wordOf h l)) s = .next t ∧
      (t.reg r).toNat = (s.reg r).toNat * 2 ^ (h.toNat * 256 + l.toNat) % 65536 ∧
      (16 ≤ h.toNat * 256 + l.toNat → t.reg r = 0) ∧
      (∀ q, q ≠ r → t.reg q = s.reg q) ∧ t.pc = s.pc + 4 ∧ KeepsAllBut [.regs, .pc] s t

/-- 42_register_ops R189 (layout and logical shift: D3, D22). -/
def Obligations.ShrDividesThePattern : Prop :=
  ∀ (r h l : Byte) (s : State), Spells (.shr r (wordOf h l)) [0x17, r, h, l] ∧
    ∃ t, exec (.shr r (wordOf h l)) s = .next t ∧
      (t.reg r).toNat = (s.reg r).toNat / 2 ^ (h.toNat * 256 + l.toNat) ∧
      (16 ≤ h.toNat * 256 + l.toNat → t.reg r = 0) ∧
      (∀ q, q ≠ r → t.reg q = s.reg q) ∧ t.pc = s.pc + 4 ∧ KeepsAllBut [.regs, .pc] s t

/-! ### Control transfer -/

/-- 43_control_flow R200: any target, unchecked. -/
def Obligations.JmpGoesToItsTarget : Prop :=
  ∀ (h l : Byte) (s : State), Spells (.jmp (wordOf h l)) [0x07, h, l] ∧
    ∃ t, exec (.jmp (wordOf h l)) s = .next t ∧ t.pc = wordOf h l ∧ KeepsAllBut [.pc] s t

/-- 43_control_flow R201 (check before push: D10): the return offset is pushed, or the full stack takes
`StackOverflow`. -/
def Obligations.CallPushesTheReturnOffset : Prop :=
  ∀ (h l : Byte) (s : State), Spells (.call (wordOf h l)) [0x04, h, l] ∧
    (s.sp ≠ 255 → ∃ t, exec (.call (wordOf h l)) s = .next t ∧ t.slot s.sp = s.pc + 3 ∧
      (∀ k, k ≠ s.sp → t.slot k = s.slot k) ∧ t.sp.toNat = s.sp.toNat + 1 ∧ t.pc = wordOf h l ∧
      KeepsAllBut [.stk, .sp, .pc] s t) ∧
    (s.sp = 255 → exec (.call (wordOf h l)) s = .next (s.raise (.stackOverflow (wordOf h l))))

/-- 43_control_flow R202 (empty stack: D9): the popped offset, or `StackUnderflow`; the slots keep their values. -/
def Obligations.RetPopsTheReturnOffset : Prop :=
  Spells .ret [0x05] ∧ ∀ s : State,
    (s.sp ≠ 0 → ∃ t, exec .ret s = .next t ∧ t.sp.toNat + 1 = s.sp.toNat ∧ t.pc = s.slot t.sp ∧
      KeepsAllBut [.sp, .pc] s t) ∧
    (s.sp = 0 → exec .ret s = .next (s.raise .stackUnderflow))

/-- P3 (43_control_flow R202): a `ret` in a state with the stack a `call` left returns to the offset after the `call`,
with `sp` as before it. -/
def Obligations.CallThenRetReturns : Prop :=
  ∀ (target : Word) (s : State), s.sp ≠ 255 → ∃ u, exec (.call target) s = .next u ∧
    ∀ v : State, v.sp = u.sp → v.slot s.sp = u.slot s.sp →
      ∃ w, exec .ret v = .next w ∧ w.pc = s.pc + 3 ∧ w.sp = s.sp ∧ KeepsAllBut [.sp, .pc] v w

/-- 43_control_flow R203: the decrement is always written, the jump taken where it is not zero. -/
def Obligations.JnzDecrementsAndJumps : Prop :=
  ∀ (r h l : Byte) (s : State), Spells (.jnz r (wordOf h l)) [0x09, r, h, l] ∧
    ∃ t, exec (.jnz r (wordOf h l)) s = .next t ∧ t.int r = Int.bmod (s.int r - 1) 65536 ∧
      (∀ q, q ≠ r → t.reg q = s.reg q) ∧ t.pc = (if s.int r = 1 then s.pc + 4 else wordOf h l) ∧
      KeepsAllBut [.regs, .pc] s t

/-- P4 (43_control_flow R203): with `x[r] = n + 1` the `jnz` is executed `n + 1` times, jumping `n` times, and leaves
`x[r] = 0`. -/
def Obligations.JnzCountsDownToZero : Prop :=
  ∀ (n : Nat) (r : RegIx) (target : Word) (s : State), s.int r = n + 1 →
    (∀ j, j ≤ n → ∃ u, repeatExec (.jnz r target) j s = .next u ∧ u.int r = n + 1 - j ∧
      u.pc = (if j = 0 then s.pc else target)) ∧
    ∃ t, repeatExec (.jnz r target) (n + 1) s = .next t ∧ t.int r = 0 ∧
      t.pc = (if n = 0 then s.pc else target) + 4 ∧ (∀ q, q ≠ r → t.reg q = s.reg q) ∧ KeepsAllBut [.regs, .pc] s t

/-- 43_control_flow R204, R205 (mode patterns, numbering and the ignored bits of `m`: D4; the reserved codes follow the
parameter: D6): signed comparison of a register with the operand; nothing is written but the cursor. -/
def Obligations.CondJmpComparesAndJumps : Prop :=
  ∀ (m r h l : Byte) (c : Cmp) (right : Operand) (s : State),
    right.mode = [Mode.imm8, .imm16, .reg, .reg].getD (m.toNat / 64) .none →
    c = [Cmp.eq, .ne, .gt, .ge, .lt, .le, .reserved6, .reserved7].getD (m.toNat % 8) .reserved7 →
    Spells (.condJmp c r right (wordOf h l)) ([0x0A, m, r] ++ right.bytes ++ [h, l]) ∧
    ∃ t, exec (.condJmp c r right (wordOf h l)) s = .next t ∧ KeepsAllBut [.pc] s t ∧
      t.pc = (if (match c with
          | .eq => decide (s.int r = operandInt s right)
          | .ne => decide (s.int r ≠ operandInt s right)
          | .gt => decide (s.int r > operandInt s right)
          | .ge => decide (s.int r ≥ operandInt s right)
          | .lt => decide (s.int r < operandInt s right)
          | .le => decide (s.int r ≤ operandInt s right)
          | .reserved6 => s.config.condJmpReservedTaken
          | .reserved7 => s.config.condJmpReservedTaken) = true
        then wordOf h l else s.pc + (if m.toNat / 64 = 1 then 7 else 6))

/-! ### Channel control -/

/-- 44_channel_ops R220 (D18): a request in `pend_off`, or `ChannelIndex` for 64..255. -/
def Obligations.SetVecRequestsAnOffset : Prop :=
  ∀ (c h l : Byte) (s : State), Spells (.setVec c (wordOf h l)) [0x08, c, h, l] ∧
    (c.toNat < 64 → ∃ t, exec (.setVec c (wordOf h l)) s = .next t ∧
      (∀ k : Fin 64, t.channel k =
        if k.val = c.toNat then { s.channel k with pendOff := wordOf h l } else s.channel k) ∧
      t.pc = s.pc + 4 ∧ KeepsAllBut [.channels, .pc] s t) ∧
    (64 ≤ c.toNat → exec (.setVec c (wordOf h l)) s = .next (s.raise (.channelIndex c)))

/-- 44_channel_ops R221 (D17): the pending fields of the range, by mode; an inverted range and the modes 3..255 change
nothing. The second half is the form without a mode byte, under the parameter's other value; that this form is a term with
an absent mode byte, and its meaning over a range that is not inverted, which no bytes decode to, are the model's choice
(assumption 15). -/
def Obligations.ResetScriptSetsTheRange : Prop :=
  ∀ (first le : Byte) (s : State),
    (∀ m : Byte, Spells (.resetScript first le (some m)) [0x0C, first, le, m] ∧
      ∃ t, exec (.resetScript first le (some m)) s = .next t ∧
        (∀ k : Fin 64, t.channel k =
          if first.toNat ≤ k.val ∧ k.val ≤ le.toNat % 64 then
            (if m.toNat = 0 then { s.channel k with pendPaused := false }
             else if m.toNat = 1 then { s.channel k with pendPaused := true }
             else if m.toNat = 2 then { s.channel k with pendOff := 0xFFFE }
             else s.channel k)
          else s.channel k) ∧
        t.pc = s.pc + 4 ∧ KeepsAllBut [.channels, .pc] s t) ∧
    Spells (.resetScript first le none) [0x0C, first, le] ∧
    ((∃ cfg, (Instr.resetScript first le none).wellFormed cfg = true) ↔ le.toNat % 64 < first.toNat) ∧
    (∃ t, exec (.resetScript first le none) s = .next t ∧ t.pc = s.pc + 3 ∧ KeepsAllBut [.pc] s t)

/-- 44_channel_ops R222: the turn is marked halted with the cursor after the `break`, and its end stores that offset. -/
def Obligations.BreakYieldsAfterItself : Prop :=
  Spells .brk [0x06] ∧ ∀ s : State, ∃ t, exec .brk s = .next t ∧ t.halted = true ∧ t.pc = s.pc + 1 ∧
    KeepsAllBut [.halted, .pc] s t ∧
    ∀ hc : t.cur.val < 64, t.phase = .exec → t.acceptedCommand = none →
      ∃ u, step t = .next u ∧ (u.channel ⟨t.cur.val, hc⟩).curOff = s.pc + 1 ∧ u.phase = .select

/-- 44_channel_ops R223 (the sentinel 0xFFFF: D8): the cursor is the sentinel, and the turn's end unschedules the
channel. -/
def Obligations.HaltUnschedules : Prop :=
  Spells .halt [0x11] ∧ ∀ s : State, ∃ t, exec .halt s = .next t ∧ t.halted = true ∧ t.pc = 0xFFFF ∧
    KeepsAllBut [.halted, .pc] s t ∧
    ∀ hc : t.cur.val < 64, t.phase = .exec → t.acceptedCommand = none →
      ∃ u, step t = .next u ∧ (u.channel ⟨t.cur.val, hc⟩).curOff = 0xFFFF ∧ u.phase = .select

/-! ### Collaborator commands -/

/-- 45_collaborator_ops R231, R232, R238 (layouts: D3, assumption 12): the operands are passed on uninterpreted, in one
command each. -/
def Obligations.SelectFillAndLoadSendTheirOperands : Prop :=
  (∀ (p : Byte) (s : State), Spells (.selectPage p) [0x0D, p] ∧
    ∃ t, exec (.selectPage p) s = .next t ∧ t.commands = s.commands ++ [.selectPage p] ∧ t.pc = s.pc + 2 ∧
      KeepsAllBut [.commands, .pc] s t) ∧
  (∀ (p k : Byte) (s : State), Spells (.fillPage p k) [0x0E, p, k] ∧
    ∃ t, exec (.fillPage p k) s = .next t ∧ t.commands = s.commands ++ [.fillPage p k] ∧ t.pc = s.pc + 3 ∧
      KeepsAllBut [.commands, .pc] s t) ∧
  (∀ (h l : Byte) (s : State), Spells (.updateMemList (wordOf h l)) [0x19, h, l] ∧
    ∃ t, exec (.updateMemList (wordOf h l)) s = .next t ∧ t.commands = s.commands ++ [.bankLoad (wordOf h l)] ∧
      t.pc = s.pc + 3 ∧ KeepsAllBut [.commands, .pc] s t)

/-- 45_collaborator_ops R230 (D24): the index is the first operand byte, the second is ignored. -/
def Obligations.SetPaletteSendsTheHighByte : Prop :=
  ∀ (h l : Byte) (s : State), Spells (.setPalette (wordOf h l)) [0x0B, h, l] ∧
    ∃ t, exec (.setPalette (wordOf h l)) s = .next t ∧ t.commands = s.commands ++ [.setPalette h] ∧
      t.pc = s.pc + 3 ∧ KeepsAllBut [.commands, .pc] s t

/-- 45_collaborator_ops R233 (D20): the scroll is the parameter's register at that moment. -/
def Obligations.CopyPageSendsTheScrollRegister : Prop :=
  ∀ (src dst : Byte) (s : State), Spells (.copyPage src dst) [0x0F, src, dst] ∧
    ∃ t, exec (.copyPage src dst) s = .next t ∧
      t.commands = s.commands ++ [.copyPage src dst (s.reg s.config.regScrollY)] ∧ t.pc = s.pc + 3 ∧
      KeepsAllBut [.commands, .pc] s t

/-- 45_collaborator_ops R234 (D19, D20), the issue step: `FLIP` with the pause register; the core waits, not halted by
it. -/
def Obligations.UpdateDisplayIssuesFlipAndWaits : Prop :=
  ∀ (p : Byte) (s : State), Spells (.updateDisplay p) [0x10, p] ∧
    ∃ t, exec (.updateDisplay p) s = .next t ∧
      t.commands = s.commands ++ [.flip p (s.reg s.config.regPauseSlices)] ∧ t.phase = .waitFlip ∧ t.pc = s.pc + 2 ∧
      KeepsAllBut [.commands, .phase, .pc] s t

/-- 45_collaborator_ops R235 (D19), the completion step: `flip_done` resumes the turn and changes nothing else; without
it the core stays. 60_exceptions R268: all state survives the wait in `IDLE` too. That waiting is a step is the model's
choice (assumption 2). -/
def Obligations.FlipDoneResumesTheTurn : Prop :=
  (∀ s : State, s.phase = .waitFlip → s.acceptedCommand = none → ∃ t, step s = .next t ∧
    t.phase = (if s.input.flipDone = true then .exec else .waitFlip) ∧ KeepsAllBut [.phase, .host] s t) ∧
  (∀ s : State, s.phase = .idle → s.acceptedCommand = none → ∃ t, step s = .next t ∧ KeepsAllBut [.host] s t)

/-- 45_collaborator_ops R236, R237, R239 (layouts: D3, D28): one command each, the operands in the record's order. -/
def Obligations.StringSoundAndMusicSendTheirOperands : Prop :=
  (∀ (h l x y k : Byte) (s : State), Spells (.drawString (wordOf h l) x y k) [0x12, h, l, x, y, k] ∧
    ∃ t, exec (.drawString (wordOf h l) x y k) s = .next t ∧
      t.commands = s.commands ++ [.drawString k x y (wordOf h l)] ∧ t.pc = s.pc + 6 ∧
      KeepsAllBut [.commands, .pc] s t) ∧
  (∀ (h l f v c : Byte) (s : State), Spells (.playSound (wordOf h l) f v c) [0x18, h, l, f, v, c] ∧
    ∃ t, exec (.playSound (wordOf h l) f v c) s = .next t ∧
      t.commands = s.commands ++ [.playSound (wordOf h l) f v c] ∧ t.pc = s.pc + 6 ∧
      KeepsAllBut [.commands, .pc] s t) ∧
  (∀ (h l h' l' p : Byte) (s : State), Spells (.playMusic (wordOf h l) (wordOf h' l') p) [0x1A, h, l, h', l', p] ∧
    ∃ t, exec (.playMusic (wordOf h l) (wordOf h' l') p) s = .next t ∧
      t.commands = s.commands ++ [.playMusic (wordOf h l) (wordOf h' l') p] ∧ t.pc = s.pc + 6 ∧
      KeepsAllBut [.commands, .pc] s t)

/-! ### Draw instructions -/

/-- 41_draw_polygon R170 (carry, zoom, bank: D21; byte order: D1): the doubled offset of the pair, `y` clamped to 199 and
its excess added to `x`. -/
def Obligations.DrawPolygonLClampsY : Prop :=
  ∀ (op b x y : Byte) (half : BitVec 15) (s : State), op.toNat * 256 + b.toNat = 0x8000 + half.toNat →
    Spells (.drawPolygonL half x y) [op, b, x, y] ∧
    ∃ t off px py, exec (.drawPolygonL half x y) s = .next t ∧
      t.commands = s.commands ++ [.drawPolygon off px py 0x40 false] ∧
      off.toNat = (op.toNat * 256 + b.toNat) * 2 % 65536 ∧
      px.toInt = (x.toNat : Int) + max ((y.toNat : Int) - 199) 0 ∧ py.toInt = min (y.toNat : Int) 199 ∧
      t.pc = s.pc + 4 ∧ KeepsAllBut [.commands, .pc] s t

/-- 41_draw_polygon R171 (modes and bank: D4, D23): each operand by its mode, the zoom unsigned, no clamp. -/
def Obligations.DrawPolygonSResolvesItsOperands : Prop :=
  ∀ (op h l : Byte) (x y z : Operand) (s : State), op.toNat / 64 = 1 →
    x.mode = [Mode.imm16, .reg, .imm8, .imm8p].getD (op.toNat / 16 % 4) .none →
    y.mode = [Mode.imm16, .reg, .imm8, .imm8].getD (op.toNat / 4 % 4) .none →
    z.mode = [Mode.none, .reg, .imm8, .none2].getD (op.toNat % 4) .none →
    Spells (.drawPolygonS (wordOf h l) x y z) ([op, h, l] ++ x.bytes ++ y.bytes ++ z.bytes) ∧
    ∃ t off px py pz, exec (.drawPolygonS (wordOf h l) x y z) s = .next t ∧
      t.commands = s.commands ++ [.drawPolygon off px py pz (decide (op.toNat % 4 = 3))] ∧
      off.toNat = (h.toNat * 256 + l.toNat) * 2 % 65536 ∧ px.toInt = operandInt s x ∧ py.toInt = operandInt s y ∧
      (pz.toNat : Int) = operandInt s z % 65536 ∧
      t.pc = s.pc + BitVec.ofNat 16 (3 + (if op.toNat / 16 % 4 = 0 then 2 else 1) +
        (if op.toNat / 4 % 4 = 0 then 2 else 1) + (if op.toNat % 4 = 1 ∨ op.toNat % 4 = 2 then 1 else 0)) ∧
      KeepsAllBut [.commands, .pc] s t

/-! ### Scheduler -/

/-- 40_scheduler R133: every row's pending half is committed, and `pend_paused` stays. -/
def Obligations.SetupCommitsThePendingHalf : Prop :=
  ∀ s : State, s.acceptedCommand = some .setup → ∃ t, step s = .next t ∧ t.phase = .idle ∧
    (∀ c, t.channel c =
      { curPaused := (s.channel c).pendPaused, pendPaused := (s.channel c).pendPaused, pendOff := 0xFFFF
        curOff :=
          if (s.channel c).pendOff = 0xFFFF then (s.channel c).curOff
          else if (s.channel c).pendOff = 0xFFFE then 0xFFFF else (s.channel c).pendOff }) ∧
    KeepsAllBut [.channels, .host] s t

/-- Two `SETUP`s in a row are the same as one (40_scheduler R133 marks this as its own inference): the second
changes nothing. -/
def Obligations.SetupTwiceIsSetupOnce : Prop :=
  ∀ s t u : State, s.acceptedCommand = some .setup → step s = .next t → t.acceptedCommand = some .setup →
    step t = .next u → KeepsAllBut [.host] t u

/-- 40_scheduler R132 (D14): every channel unscheduled and unpaused, channel 0 at the entry; registers, stack and the
rest stay. -/
def Obligations.RestartAtSchedulesChannelZero : Prop :=
  ∀ (s : State) (e : Word), s.acceptedCommand = some (.restartAt e) → ∃ t, step s = .next t ∧
    (∀ c : Fin 64, t.channel c = ⟨if c = 0 then e else 0xFFFF, 0xFFFF, false, false⟩) ∧
    KeepsAllBut [.channels, .host] s t

/-- 40_scheduler R134, R142 (D31, D35): `RUN` starts at channel 0; `FRAME` is `SETUP` and then `RUN`, in one step. -/
def Obligations.RunAndFrameStartAtChannelZero : Prop :=
  (∀ s : State, s.acceptedCommand = some .run → ∃ t, step s = .next t ∧ t.cur = 0 ∧ t.phase = .select ∧
    KeepsAllBut [.cur, .phase, .host] s t) ∧
  (∀ s : State, s.acceptedCommand = some .frame → ∃ t, step s = .next t ∧ t.cur = 0 ∧ t.phase = .select ∧
    (∀ c, t.channel c = s.setup.channel c) ∧ KeepsAllBut [.channels, .cur, .phase, .host] s t)

/-- 40_scheduler R135, R136: the four outcomes of the `SELECT` step. -/
def Obligations.SelectStepFindsTheNextTurn : Prop :=
  ∀ s : State, s.phase = .select → s.acceptedCommand = none →
    (s.cur.val = 64 → ∃ t, step s = .next t ∧ t.status = .done ∧ t.phase = .idle ∧
      KeepsAllBut [.status, .phase, .host] s t) ∧
    (∀ hc : s.cur.val < 64,
      (s.input.quit = true → ∃ t, step s = .next t ∧ t.status = .aborted ∧ t.phase = .idle ∧
        KeepsAllBut [.status, .phase, .host] s t) ∧
      (s.input.quit = false → (s.channel ⟨s.cur.val, hc⟩).curPaused = false →
        (s.channel ⟨s.cur.val, hc⟩).curOff ≠ 0xFFFF → ∃ t, step s = .next t ∧
          t.pc = (s.channel ⟨s.cur.val, hc⟩).curOff ∧ t.sp = 0 ∧ t.halted = false ∧ t.phase = .exec ∧
          KeepsAllBut [.pc, .sp, .halted, .phase, .host] s t) ∧
      (s.input.quit = false →
        ((s.channel ⟨s.cur.val, hc⟩).curPaused = true ∨ (s.channel ⟨s.cur.val, hc⟩).curOff = 0xFFFF) →
        ∃ t, step s = .next t ∧ t.cur.val = s.cur.val + 1 ∧ KeepsAllBut [.cur, .host] s t))

/-- 40_scheduler R138: a halted turn stores its cursor and the next channel is considered; `quit` is not sampled. -/
def Obligations.TurnEndStoresTheCursor : Prop :=
  ∀ s : State, s.cur.val < 64 → s.phase = .exec → s.halted = true → s.acceptedCommand = none →
    ∃ t, step s = .next t ∧
      (∀ k : Fin 64, t.channel k = if k.val = s.cur.val then { s.channel k with curOff := s.pc } else s.channel k) ∧
      t.cur.val = s.cur.val + 1 ∧ t.phase = .select ∧ KeepsAllBut [.channels, .cur, .phase, .host] s t

/-- 40_scheduler R140 (the interrupted turn's cursor: D13): quit inside a turn stores the cursor and ends the `RUN`. -/
def Obligations.QuitInsideATurnEndsTheRun : Prop :=
  ∀ s : State, s.cur.val < 64 → s.phase = .exec → s.halted = false → s.acceptedCommand = none →
    s.input.quit = true → ∃ t, step s = .next t ∧
      (∀ k : Fin 64, t.channel k = if k.val = s.cur.val then { s.channel k with curOff := s.pc } else s.channel k) ∧
      t.status = .aborted ∧ t.phase = .idle ∧ KeepsAllBut [.channels, .status, .phase, .host] s t

/-- A `RUN` that finds no runnable channel considers every one of them and ends `DONE`, whatever else the state holds
(40_scheduler R135, R141), under a host that drives nothing: an empty input list, which is a quiet host by the model's choice
(assumption 1). -/
def Obligations.RunWithNothingRunnableEndsDone : Prop :=
  ∀ (n : Nat) (s : State), s.phase = .select → s.cur.val + n = 64 → s.host = [] →
    (∀ c, (s.channel c).curPaused = true ∨ (s.channel c).curOff = 0xFFFF) →
    ∃ t, Host.Core.run Sys2Proof.core (n + 1) s = .next t ∧ t.phase = .idle ∧ t.status = .done ∧ t.cur.val = 64 ∧
      KeepsAllBut [.phase, .status, .cur] s t

/-- 10_state R28: who writes the two pause bits, and that `SETUP` does not clear `pend_paused`. -/
def Obligations.PauseBitsHaveTheirWriters : Prop :=
  (∀ (s t : State) (c : Fin 64), step s = .next t → (t.channel c).curPaused ≠ (s.channel c).curPaused →
    s.acceptedCommand = some .setup ∨ s.acceptedCommand = some .frame ∨ s.acceptedCommand = some .reset ∨
    (∃ e, s.acceptedCommand = some (.restartAt e)) ∨ (∃ r k, s.acceptedCommand = some (.stateLoad r k))) ∧
  (∀ (s t : State) (c : Fin 64), step s = .next t → (t.channel c).pendPaused ≠ (s.channel c).pendPaused →
    (s.ready ∧ ∃ f l m, s.fetch = .ok (.resetScript f l (some m)) ∧ m.toNat < 2 ∧
      (t.channel c).pendPaused = decide (m.toNat = 1)) ∨
    s.acceptedCommand = some .reset ∨ (∃ e, s.acceptedCommand = some (.restartAt e)) ∨
    (∃ r k, s.acceptedCommand = some (.stateLoad r k))) ∧
  (∀ (s : State) (c : Fin 64), (s.setup.channel c).pendPaused = (s.channel c).pendPaused)

/-- 10_state R29, the double-buffer invariant: no instruction writes a current half, and no step depends on the pending
half of any channel but `SETUP` (in `FRAME` too), which moves it to the current half, and the host's `STATE_READ`. -/
def Obligations.PendingHalfIsNotReadDuringARun : Prop :=
  (∀ (i : Instr) (s t : State) (c : Fin 64), exec i s = .next t →
    (t.channel c).curOff = (s.channel c).curOff ∧ (t.channel c).curPaused = (s.channel c).curPaused) ∧
  (∀ s s' : State, s.blankPending = s'.blankPending → s.acceptedCommand ≠ some .setup →
    s.acceptedCommand ≠ some .frame → s.acceptedCommand ≠ some .stateRead → AgreeButPending (step s) (step s'))

/-- Within a `RUN` the channel index never falls and rises by at most one (40_scheduler R135, R138, R146, the last marked
as derived): channels run in ascending order. -/
def Obligations.ChannelsAreVisitedInAscendingOrder : Prop :=
  ∀ s t : State, step s = .next t → s.acceptedCommand = none →
    s.cur.val ≤ t.cur.val ∧ t.cur.val ≤ s.cur.val + 1 ∧ (t.cur ≠ s.cur → s.phase = .select ∨ s.phase = .exec)

/-! ### Registers, commands and Code Store as a whole -/

/-- No instruction changes a register but its destination (the nine register instructions and `jnz` have one), and no
step changes a register but by the destination of the instruction it runs, `REG_WRITE`, `STATE_LOAD` or `RESET` (10_state R23;
the port's phases are D16). -/
def Obligations.OnlyTheDestinationRegisterChanges : Prop :=
  (∀ (i : Instr) (s t : State) (r : RegIx), exec i s = .next t → t.reg r ≠ s.reg r → destination i = some r) ∧
  (∀ (s t : State) (r : RegIx), step s = .next t → t.reg r ≠ s.reg r →
    (s.ready ∧ ∃ i, s.fetch = .ok i ∧ destination i = some r) ∨
    (∃ v, s.acceptedCommand = some (.regWrite r v)) ∨
    (∃ regs table, s.acceptedCommand = some (.stateLoad regs table)) ∨ s.acceptedCommand = some .reset)

/-- Commands leave in the order their instructions execute: a step appends at most one and drops none, but for `RESET`
(20_memory R71, D27). -/
def Obligations.CommandStreamOnlyGrows : Prop :=
  ∀ s t : State, step s = .next t → s.acceptedCommand ≠ some .reset →
    ∃ new, t.commands = s.commands ++ new ∧ new.length ≤ 1

/-- No step writes the Code Store but an accepted `CODE_INSTALL` (20_memory R62, R76, D16, D26, for the program's side), and
none changes the parameters, which stand in State by the model's choice (assumption 7). That `RESET` keeps the Code Store is
70_reset_and_hazards R290 read over 40_scheduler R145, a deduction (assumption 4). -/
def Obligations.CodeStoreChangesOnlyByInstall : Prop :=
  ∀ s t : State, step s = .next t → t.config = s.config ∧
    (t.code ≠ s.code → s.phase = .idle ∧ ∃ bytes, s.acceptedCommand = some (.codeInstall bytes))

/-! ### Host port -/

/-- 40_scheduler R130 (D16, D31; the core's own step going on is assumption 3): the phases each command is accepted in, and
that a command offered outside its phases has no effect. -/
def Obligations.UnacceptedCommandsHaveNoEffect : Prop :=
  (∀ c : HostCommand, c.acceptedIn .idle = true) ∧
  (∀ (c : HostCommand) (p : Phase), p = .select ∨ p = .exec ∨ p = .waitFlip → (c.acceptedIn p = true ↔ c = .reset)) ∧
  (∀ c : HostCommand, c.acceptedIn .faulted = true ↔ c = .reset ∨ (∃ r, c = .regRead r) ∨ c = .stateRead) ∧
  (∀ (s : State) (c : HostCommand) (q f : Bool) (rest : List HostInput), s.host = ⟨some c, q, f⟩ :: rest →
    s.acceptedCommand = if c.acceptedIn s.phase = true then some c else none) ∧
  (∀ (s : State) (c : HostCommand) (q f : Bool) (rest : List HostInput), s.host = ⟨some c, q, f⟩ :: rest →
    c.acceptedIn s.phase = false → step s = step { s with host := ⟨none, q, f⟩ :: rest })

/-- 40_scheduler R143, R144 (D16, D30; where the answers go is assumption 8). -/
def Obligations.HostReadsAndWritesState : Prop :=
  (∀ (s : State) (r : RegIx) (v : Word), s.acceptedCommand = some (.regWrite r v) → ∃ t, step s = .next t ∧
    t.reg r = v ∧ (∀ q, q ≠ r → t.reg q = s.reg q) ∧ KeepsAllBut [.regs, .host] s t) ∧
  (∀ (s : State) (r : RegIx), s.acceptedCommand = some (.regRead r) → ∃ t, step s = .next t ∧
    t.replies = s.replies ++ [.regRead (s.reg r)] ∧ KeepsAllBut [.replies, .host] s t) ∧
  (∀ s : State, s.acceptedCommand = some .stateRead → ∃ t, step s = .next t ∧
    t.replies = s.replies ++ [.stateRead s.regs s.channels (if s.phase = .faulted then s.fault else none)] ∧
    KeepsAllBut [.replies, .host] s t) ∧
  (∀ (s : State) regs table, s.acceptedCommand = some (.stateLoad regs table) → ∃ t, step s = .next t ∧
    t.regs = regs ∧ t.channels = table ∧ KeepsAllBut [.regs, .channels, .host] s t)

/-- 40_scheduler R145 (D7): the installed bytes are what is read below `CODE_LEN`, and nothing else changes; a longer
store is refused (93_implementation_defined U17, assumption 9). -/
def Obligations.InstalledCodeReadsBack : Prop :=
  ∀ (s : State) (bytes : List Byte), s.acceptedCommand = some (.codeInstall bytes) →
    (bytes.length ≤ 0xFFFF → ∃ t, step s = .next t ∧ t.code.len.toNat = bytes.length ∧
      (∀ a, t.code.read a = bytes[a]?) ∧ t.code.wf = true ∧ KeepsAllBut [.memory, .host] s t) ∧
    (0xFFFF < bytes.length → step s = .refused .codeStoreTooLong)

/-- 70_reset_and_hazards R290, 10_state R50 (every value: D15): `RESET` is accepted in every phase and leaves the listed
values; the Code Store stays (assumption 4), and so do the model's own fields. Power-on leaves the same values. -/
def Obligations.ResetLeavesTheListedValues : Prop :=
  ((∀ r, State.reset.int r = 0) ∧ (∀ c, State.reset.channel c = ⟨0xFFFF, 0xFFFF, false, false⟩) ∧
    State.reset.sp = 0 ∧ State.reset.pc = 0 ∧ State.reset.halted = false ∧ State.reset.phase = .idle ∧
    State.reset.cur = 0 ∧ State.reset.fault = none ∧ State.reset.status = .noRun ∧ State.reset.commands = [] ∧
    State.reset.code.len = 0) ∧
  (∀ s : State, s.input.command = some .reset → ∃ t, step s = .next t ∧
    KeepsAllBut [.stk, .memory, .config, .host, .replies] State.reset t ∧ KeepsAllBut [.regs, .channels, .stk, .sp, .pc,
      .halted, .phase, .cur, .fault, .status, .commands, .host] s t)

/-! ### The invariant -/

/-- The power-on state has the invariant. -/
def Obligations.ResetHasTheInvariant : Prop := State.reset.Inv

/-- Every step keeps the invariant, from every state that has it. -/
def Obligations.EveryStepKeepsTheInvariant : Prop := ∀ s t : State, s.Inv → step s = .next t → t.Inv

/-- From the invariant the machine never stops: every step has a next state, but for a `CODE_INSTALL` of more than 0xFFFF
bytes (93_implementation_defined U17), whose refusal by name is assumption 9. That a step of `IDLE`, `FAULTED` or `WAIT_FLIP`
in which the host does nothing is a next state, where the spec gives the core no step of its own, is the model's choice
(assumption 2). -/
def Obligations.NoStepStopsFromTheInvariant : Prop :=
  ∀ s : State, s.Inv → (∃ t, step s = .next t) ∨
    (∃ bytes, s.acceptedCommand = some (.codeInstall bytes) ∧ 0xFFFF < bytes.length ∧
      step s = .refused .codeStoreTooLong)
end

