-- ==== Sys2Proof/Laws/Bank.lean ====
section
/-! SUPPORT. The laws of a bank: reading a cell after a write, and equality cell by cell. -/

namespace Sys2Proof.Machine

variable {α : Type} {n : Nat}

@[simp] theorem Bank.get_set_same (b : Bank α n) (i : Fin n) (a : α) : (b.set i a).get i = a := by
  simp [Bank.get, Bank.set]

theorem Bank.get_set_ne (b : Bank α n) {i j : Fin n} (h : i ≠ j) (a : α) : (b.set i a).get j = b.get j := by
  have hv : i.val ≠ j.val := fun he => h (Fin.ext he)
  simp [Bank.get, Bank.set, List.getElem_set_of_ne hv]

@[simp] theorem Bank.get_replicate (a : α) (i : Fin n) : (Bank.replicate n a).get i = a := by
  simp [Bank.get, Bank.replicate]

@[simp] theorem Bank.get_ofFn (f : Fin n → α) (i : Fin n) : (Bank.ofFn f).get i = f i := by
  simp [Bank.get, Bank.ofFn]

@[simp] theorem Bank.get_map (f : α → α) (b : Bank α n) (i : Fin n) : (b.map f).get i = f (b.get i) := by
  simp [Bank.get, Bank.map]

/-- Two banks with the same cells are one bank. -/
theorem Bank.ext_get {b c : Bank α n} (h : ∀ i, b.get i = c.get i) : b = c := by
  obtain ⟨bs, hb⟩ := b
  obtain ⟨cs, hc⟩ := c
  have : bs = cs := by
    apply List.ext_getElem (hb.trans hc.symm)
    intro k hk _
    simpa [Bank.get] using h ⟨k, hb ▸ hk⟩
  subst this
  rfl

end Sys2Proof.Machine
end

