-- ==== Sys2Proof/Laws/Memory.lean ====
section
/-! SUPPORT. The laws of the Code Store's list of bytes: reading after writing, and the canonical form that every
operation keeps; and what a window of fetched bytes holds. -/

namespace Sys2Proof.Machine

/-! ### Reading after writing -/

theorem Memory.read_write_ne (m : Memory) {a c : Nat} (b : Byte) (h : c ≠ a) :
    Memory.read (Memory.write m a b) c = Memory.read m c := by
  induction m with
  | nil => simp only [Memory.write]; split <;> simp [Memory.read, h.symm]
  | cons e m ih =>
    obtain ⟨k, v⟩ := e
    simp only [Memory.write]
    split
    · split <;> simp [Memory.read, h.symm]
    · split
      · rename_i hk
        subst hk
        split <;> simp [Memory.read, h.symm]
      · simp [Memory.read, ih]

theorem Memory.wfFrom_mono {lo lo' : Nat} {m : Memory} (h : Memory.wfFrom lo m = true) (hl : lo' ≤ lo) :
    Memory.wfFrom lo' m = true := by
  cases m with
  | nil => rfl
  | cons e m =>
    obtain ⟨k, v⟩ := e
    simp only [Memory.wfFrom, Bool.and_eq_true, decide_eq_true_eq] at h ⊢
    exact ⟨⟨by omega, h.1.2⟩, h.2⟩

theorem Memory.read_below {lo a : Nat} {m : Memory} (h : Memory.wfFrom lo m = true) (ha : a < lo) :
    Memory.read m a = 0 := by
  induction m generalizing lo with
  | nil => rfl
  | cons e m ih =>
    obtain ⟨k, v⟩ := e
    simp only [Memory.wfFrom, Bool.and_eq_true, decide_eq_true_eq] at h
    have hk : k ≠ a := by omega
    simp only [Memory.read, hk, if_false]
    exact ih h.2 (by omega)

theorem Memory.read_write_same {lo : Nat} {m : Memory} (h : Memory.wfFrom lo m = true) (a : Nat) (b : Byte) :
    Memory.read (Memory.write m a b) a = b := by
  induction m generalizing lo with
  | nil =>
    simp only [Memory.write]
    split
    · rename_i hb
      exact hb.symm
    · simp [Memory.read]
  | cons e m ih =>
    obtain ⟨k, v⟩ := e
    simp only [Memory.wfFrom, Bool.and_eq_true, decide_eq_true_eq] at h
    simp only [Memory.write]
    split
    · split
      · rename_i hlt hb
        have hk : k ≠ a := by omega
        simp only [Memory.read, hk, if_false, hb]
        exact Memory.read_below h.2 (by omega)
      · simp [Memory.read]
    · split
      · rename_i hk
        subst hk
        split
        · rename_i hb
          rw [hb]
          exact Memory.read_below h.2 (by omega)
        · simp [Memory.read]
      · rename_i hk
        simp only [Memory.read, Ne.symm hk, if_false]
        exact ih h.2

/-- A write keeps the canonical form. -/
theorem Memory.write_wfFrom {lo a : Nat} {m : Memory} (h : Memory.wfFrom lo m = true) (hl : lo ≤ a) (b : Byte) :
    Memory.wfFrom lo (Memory.write m a b) = true := by
  induction m generalizing lo with
  | nil =>
    simp only [Memory.write]
    split
    · rfl
    · rename_i hb
      simp only [Memory.wfFrom, Bool.and_eq_true, decide_eq_true_eq]
      exact ⟨⟨hl, hb⟩, trivial⟩
  | cons e m ih =>
    obtain ⟨k, v⟩ := e
    simp only [Memory.wfFrom, Bool.and_eq_true, decide_eq_true_eq] at h
    simp only [Memory.write]
    split
    · split
      · simp only [Memory.wfFrom, Bool.and_eq_true, decide_eq_true_eq]
        exact h
      · rename_i hlt hb
        simp only [Memory.wfFrom, Bool.and_eq_true, decide_eq_true_eq]
        exact ⟨⟨hl, hb⟩, ⟨by omega, h.1.2⟩, h.2⟩
    · split
      · rename_i hk
        split
        · exact Memory.wfFrom_mono h.2 (by omega)
        · rename_i hb
          simp only [Memory.wfFrom, Bool.and_eq_true, decide_eq_true_eq]
          exact ⟨⟨hl, hb⟩, hk ▸ h.2⟩
      · simp only [Memory.wfFrom, Bool.and_eq_true, decide_eq_true_eq]
        exact ⟨h.1, ih h.2 (by omega)⟩

theorem Memory.writeAll_wf {m : Memory} (h : Memory.wf m = true) (a : Nat) (bs : List Byte) :
    Memory.wf (Memory.writeAll m a bs) = true := by
  induction bs generalizing m a with
  | nil => exact h
  | cons b bs ih => exact ih (Memory.write_wfFrom h (Nat.zero_le _) b) (a + 1)

/-- A write lists no offset but its own. -/
theorem Memory.mem_write {m : Memory} {a : Nat} {b : Byte} {e : Host.Cell} (h : e ∈ Memory.write m a b) :
    e ∈ m ∨ e.1 = a := by
  induction m with
  | nil =>
    simp only [Memory.write] at h
    split at h
    · exact .inl h
    · exact .inr (by simp at h; simp [h])
  | cons x m ih =>
    obtain ⟨k, v⟩ := x
    simp only [Memory.write] at h
    split at h
    · split at h
      · exact .inl h
      · rcases List.mem_cons.1 h with rfl | h
        · exact .inr rfl
        · exact .inl h
    · split at h
      · split at h
        · exact .inl (List.mem_cons_of_mem _ h)
        · rcases List.mem_cons.1 h with rfl | h
          · exact .inr rfl
          · exact .inl (List.mem_cons_of_mem _ h)
      · rcases List.mem_cons.1 h with rfl | h
        · exact .inl List.mem_cons_self
        · rcases ih h with h | h
          · exact .inl (List.mem_cons_of_mem _ h)
          · exact .inr h

theorem Memory.mem_writeAll {m : Memory} {a : Nat} {bs : List Byte} {e : Host.Cell}
    (h : e ∈ Memory.writeAll m a bs) : e ∈ m ∨ e.1 < a + bs.length := by
  induction bs generalizing m a with
  | nil => exact .inl h
  | cons b bs ih =>
    rcases ih h with h | h
    · rcases Memory.mem_write h with h | h
      · exact .inl h
      · exact .inr (by simp; omega)
    · exact .inr (by simp; omega)

/-- A byte of a list that consecutive writes changed. -/
theorem Memory.read_writeAll {m : Memory} (h : Memory.wf m = true) (bs : List Byte) (a c : Nat) :
    Memory.read (Memory.writeAll m a bs) c =
      if a ≤ c ∧ c < a + bs.length then bs.getD (c - a) 0 else Memory.read m c := by
  induction bs generalizing m a with
  | nil =>
    have hno : ¬(a ≤ c ∧ c < a + ([] : List Byte).length) := by simp
    rw [if_neg hno]
    rfl
  | cons b bs ih =>
    simp only [Memory.writeAll]
    have hw : Memory.wf (Memory.write m a b) = true := Memory.write_wfFrom h (Nat.zero_le _) b
    rw [ih hw]
    by_cases hc : c = a
    · subst hc
      have h1 : ¬(c + 1 ≤ c ∧ c < c + 1 + bs.length) := by omega
      have h2 : c ≤ c ∧ c < c + (b :: bs).length := by simp
      rw [if_neg h1, if_pos h2, Memory.read_write_same (lo := 0) h]
      simp
    · rw [Memory.read_write_ne _ _ hc]
      by_cases hin : a + 1 ≤ c ∧ c < a + 1 + bs.length
      · have h2 : a ≤ c ∧ c < a + (b :: bs).length := by simp; omega
        rw [if_pos hin, if_pos h2]
        obtain ⟨d, rfl⟩ : ∃ d, c = a + 1 + d := ⟨c - (a + 1), by omega⟩
        have e1 : a + 1 + d - (a + 1) = d := by omega
        have e2 : a + 1 + d - a = d + 1 := by omega
        rw [e1, e2]
        rfl
      · have h2 : ¬(a ≤ c ∧ c < a + (b :: bs).length) := by simp; omega
        rw [if_neg hin, if_neg h2]

/-! ### Installed bytes -/

theorem Memory.ofBytes_wfFrom {lo a : Nat} (hl : lo ≤ a) (bs : List Byte) :
    Memory.wfFrom lo (Memory.ofBytes a bs) = true := by
  induction bs generalizing lo a with
  | nil => rfl
  | cons b bs ih =>
    simp only [Memory.ofBytes]
    split
    · exact ih (by omega)
    · rename_i hb
      simp only [Memory.wfFrom, Bool.and_eq_true, decide_eq_true_eq]
      exact ⟨⟨hl, hb⟩, ih (Nat.le_refl _)⟩

theorem Memory.mem_ofBytes {a : Nat} {bs : List Byte} {e : Host.Cell} (h : e ∈ Memory.ofBytes a bs) :
    e.1 < a + bs.length := by
  induction bs generalizing a with
  | nil => cases h
  | cons b bs ih =>
    simp only [Memory.ofBytes] at h
    split at h
    · have := ih h; simp; omega
    · rcases List.mem_cons.1 h with rfl | h
      · simp
      · have := ih h; simp; omega

theorem Memory.read_ofBytes (a : Nat) (bs : List Byte) (d : Nat) :
    Memory.read (Memory.ofBytes a bs) (a + d) = bs.getD d 0 := by
  induction bs generalizing a d with
  | nil => rfl
  | cons b bs ih =>
    simp only [Memory.ofBytes]
    cases d with
    | zero =>
      split
      · rename_i hb
        rw [hb]
        exact Memory.read_below (Memory.ofBytes_wfFrom (Nat.le_refl (a + 1)) bs) (by omega)
      · simp [Memory.read]
    | succ d =>
      have e : a + (d + 1) = a + 1 + d := by omega
      have hne : a ≠ a + 1 + d := by omega
      split
      · rw [e, ih]; rfl
      · rw [e]; simp only [Memory.read, hne, if_false]; rw [ih]; rfl

/-- An installed Code Store is canonical. -/
theorem CodeStore.ofBytes_wf {bs : List Byte} (h : bs.length ≤ 0xFFFF) : (CodeStore.ofBytes bs).wf = true := by
  have hlen : (CodeStore.ofBytes bs).len.toNat = bs.length := by simp [CodeStore.ofBytes]; omega
  simp only [CodeStore.wf, Memory.wf, Bool.and_eq_true, List.all_eq_true, decide_eq_true_eq, hlen]
  refine ⟨Memory.ofBytes_wfFrom (Nat.le_refl 0) bs, fun e he => ?_⟩
  have := Memory.mem_ofBytes he
  omega

/-- An installed byte is the byte installed (40_scheduler R145). -/
theorem CodeStore.read_ofBytes {bs : List Byte} (h : bs.length ≤ 0xFFFF) (a : Nat) :
    (CodeStore.ofBytes bs).read a = bs[a]? := by
  have hlen : (CodeStore.ofBytes bs).len.toNat = bs.length := by simp [CodeStore.ofBytes]; omega
  simp only [CodeStore.read, hlen]
  have := Memory.read_ofBytes 0 bs a
  rw [Nat.zero_add] at this
  split
  · rename_i ha
    simp [CodeStore.ofBytes, this, List.getD, List.getElem?_eq_getElem ha]
  · rename_i ha
    exact (List.getElem?_eq_none (by omega)).symm

theorem CodeStore.empty_wf : CodeStore.empty.wf = true := by decide

/-- Placing bytes below 0xFFFF keeps the canonical form. -/
theorem CodeStore.place_wf {c : CodeStore} (h : c.wf = true) {a : Nat} {bs : List Byte} (hb : a + bs.length ≤ 0xFFFF) :
    (c.place a bs).wf = true := by
  have hc : c.len.toNat < 65536 := c.len.isLt
  have hlen : (c.place a bs).len.toNat = max c.len.toNat (a + bs.length) := by simp [CodeStore.place]; omega
  simp only [CodeStore.wf, Bool.and_eq_true, List.all_eq_true, decide_eq_true_eq, hlen] at h ⊢
  refine ⟨Memory.writeAll_wf h.1 a bs, fun e he => ?_⟩
  rcases Memory.mem_writeAll he with he | he
  · have := h.2 e he; omega
  · omega

/-- A placed byte is the byte placed; any other is as before. -/
theorem CodeStore.read_place {c : CodeStore} (h : c.wf = true) {a : Nat} {bs : List Byte} (hb : a + bs.length ≤ 0xFFFF)
    (k : Nat) (hk : k < bs.length) : (c.place a bs).read (a + k) = some bs[k] := by
  have hc : c.len.toNat < 65536 := c.len.isLt
  have hlen : (c.place a bs).len.toNat = max c.len.toNat (a + bs.length) := by simp [CodeStore.place]; omega
  simp only [CodeStore.wf, Bool.and_eq_true] at h
  simp only [CodeStore.read, hlen]
  rw [if_pos (by omega)]
  simp only [CodeStore.place]
  rw [Memory.read_writeAll h.1, if_pos (by omega)]
  have e : a + k - a = k := by omega
  simp [e, List.getD, List.getElem?_eq_getElem hk]

/-! ### Windows -/

/-- A window is cut at `CODE_LEN` and nowhere else (30_encoding R94). -/
theorem CodeStore.window_length (c : CodeStore) (a n : Nat) : (c.window a n).length = min n (c.len.toNat - a) := by
  induction n generalizing a with
  | zero => simp [CodeStore.window]
  | succ n ih =>
    simp only [CodeStore.window]
    cases hr : c.read a with
    | none =>
      simp only [CodeStore.read] at hr
      split at hr
      · cases hr
      · simp; omega
    | some b =>
      simp only [CodeStore.read] at hr
      split at hr
      · simp only [List.length_cons, ih]; omega
      · cases hr

/-- The bytes of a window are the Code Store's. -/
theorem CodeStore.window_get (c : CodeStore) (a n k : Nat) (hk : k < n) : (c.window a n)[k]? = c.read (a + k) := by
  induction n generalizing a k with
  | zero => omega
  | succ n ih =>
    simp only [CodeStore.window]
    cases hr : c.read a with
    | none =>
      simp only [CodeStore.read] at hr ⊢
      split at hr
      · cases hr
      · rw [if_neg (by omega)]; rfl
    | some b =>
      cases k with
      | zero => simpa using hr.symm
      | succ k =>
        have e : a + (k + 1) = a + 1 + k := by omega
        rw [e, ← ih (a + 1) k (by omega)]
        rfl

end Sys2Proof.Machine
end

