-- ==== Sys2Proof/Laws/State.lean ====
section
/-! SUPPORT. What each update of the state leaves in each field, and what the readers (`reg`, `int`, `slot`, `channel`)
see after it. Later proofs use these and unfold no record update. -/

namespace Sys2Proof.Machine

/-! `setReg` -/

@[simp] theorem setReg_regs (s : State) (r : RegIx) (v : Word) : (s.setReg r v).regs = s.regs.set r.toFin v := rfl
@[simp] theorem setReg_channels (s : State) (r : RegIx) (v : Word) : (s.setReg r v).channels = s.channels := rfl
@[simp] theorem setReg_stk (s : State) (r : RegIx) (v : Word) : (s.setReg r v).stk = s.stk := rfl
@[simp] theorem setReg_sp (s : State) (r : RegIx) (v : Word) : (s.setReg r v).sp = s.sp := rfl
@[simp] theorem setReg_pc (s : State) (r : RegIx) (v : Word) : (s.setReg r v).pc = s.pc := rfl
@[simp] theorem setReg_halted (s : State) (r : RegIx) (v : Word) : (s.setReg r v).halted = s.halted := rfl
@[simp] theorem setReg_phase (s : State) (r : RegIx) (v : Word) : (s.setReg r v).phase = s.phase := rfl
@[simp] theorem setReg_cur (s : State) (r : RegIx) (v : Word) : (s.setReg r v).cur = s.cur := rfl
@[simp] theorem setReg_fault (s : State) (r : RegIx) (v : Word) : (s.setReg r v).fault = s.fault := rfl
@[simp] theorem setReg_status (s : State) (r : RegIx) (v : Word) : (s.setReg r v).status = s.status := rfl
@[simp] theorem setReg_commands (s : State) (r : RegIx) (v : Word) : (s.setReg r v).commands = s.commands := rfl
@[simp] theorem setReg_code (s : State) (r : RegIx) (v : Word) : (s.setReg r v).code = s.code := rfl
@[simp] theorem setReg_config (s : State) (r : RegIx) (v : Word) : (s.setReg r v).config = s.config := rfl
@[simp] theorem setReg_host (s : State) (r : RegIx) (v : Word) : (s.setReg r v).host = s.host := rfl
@[simp] theorem setReg_replies (s : State) (r : RegIx) (v : Word) : (s.setReg r v).replies = s.replies := rfl
@[simp] theorem setReg_slot (s : State) (r : RegIx) (v : Word) (k : Byte) : (s.setReg r v).slot k = s.slot k := rfl
@[simp] theorem setReg_channel (s : State) (r : RegIx) (v : Word) (k : Fin 64) : (s.setReg r v).channel k = s.channel k := rfl

/-! `after` -/

@[simp] theorem after_regs (s : State) (i : Instr) : (s.after i).regs = s.regs := rfl
@[simp] theorem after_channels (s : State) (i : Instr) : (s.after i).channels = s.channels := rfl
@[simp] theorem after_stk (s : State) (i : Instr) : (s.after i).stk = s.stk := rfl
@[simp] theorem after_sp (s : State) (i : Instr) : (s.after i).sp = s.sp := rfl
@[simp] theorem after_pc (s : State) (i : Instr) : (s.after i).pc = s.pc + BitVec.ofNat 16 i.length := rfl
@[simp] theorem after_halted (s : State) (i : Instr) : (s.after i).halted = s.halted := rfl
@[simp] theorem after_phase (s : State) (i : Instr) : (s.after i).phase = s.phase := rfl
@[simp] theorem after_cur (s : State) (i : Instr) : (s.after i).cur = s.cur := rfl
@[simp] theorem after_fault (s : State) (i : Instr) : (s.after i).fault = s.fault := rfl
@[simp] theorem after_status (s : State) (i : Instr) : (s.after i).status = s.status := rfl
@[simp] theorem after_commands (s : State) (i : Instr) : (s.after i).commands = s.commands := rfl
@[simp] theorem after_code (s : State) (i : Instr) : (s.after i).code = s.code := rfl
@[simp] theorem after_config (s : State) (i : Instr) : (s.after i).config = s.config := rfl
@[simp] theorem after_host (s : State) (i : Instr) : (s.after i).host = s.host := rfl
@[simp] theorem after_replies (s : State) (i : Instr) : (s.after i).replies = s.replies := rfl
@[simp] theorem after_reg (s : State) (i : Instr) (q : RegIx) : (s.after i).reg q = s.reg q := rfl
@[simp] theorem after_int (s : State) (i : Instr) (q : RegIx) : (s.after i).int q = s.int q := rfl
@[simp] theorem after_slot (s : State) (i : Instr) (k : Byte) : (s.after i).slot k = s.slot k := rfl
@[simp] theorem after_channel (s : State) (i : Instr) (k : Fin 64) : (s.after i).channel k = s.channel k := rfl

/-! `jump` -/

@[simp] theorem jump_regs (s : State) (t : Word) : (s.jump t).regs = s.regs := rfl
@[simp] theorem jump_channels (s : State) (t : Word) : (s.jump t).channels = s.channels := rfl
@[simp] theorem jump_stk (s : State) (t : Word) : (s.jump t).stk = s.stk := rfl
@[simp] theorem jump_sp (s : State) (t : Word) : (s.jump t).sp = s.sp := rfl
@[simp] theorem jump_pc (s : State) (t : Word) : (s.jump t).pc = t := rfl
@[simp] theorem jump_halted (s : State) (t : Word) : (s.jump t).halted = s.halted := rfl
@[simp] theorem jump_phase (s : State) (t : Word) : (s.jump t).phase = s.phase := rfl
@[simp] theorem jump_cur (s : State) (t : Word) : (s.jump t).cur = s.cur := rfl
@[simp] theorem jump_fault (s : State) (t : Word) : (s.jump t).fault = s.fault := rfl
@[simp] theorem jump_status (s : State) (t : Word) : (s.jump t).status = s.status := rfl
@[simp] theorem jump_commands (s : State) (t : Word) : (s.jump t).commands = s.commands := rfl
@[simp] theorem jump_code (s : State) (t : Word) : (s.jump t).code = s.code := rfl
@[simp] theorem jump_config (s : State) (t : Word) : (s.jump t).config = s.config := rfl
@[simp] theorem jump_host (s : State) (t : Word) : (s.jump t).host = s.host := rfl
@[simp] theorem jump_replies (s : State) (t : Word) : (s.jump t).replies = s.replies := rfl
@[simp] theorem jump_reg (s : State) (t : Word) (q : RegIx) : (s.jump t).reg q = s.reg q := rfl
@[simp] theorem jump_int (s : State) (t : Word) (q : RegIx) : (s.jump t).int q = s.int q := rfl
@[simp] theorem jump_slot (s : State) (t : Word) (k : Byte) : (s.jump t).slot k = s.slot k := rfl
@[simp] theorem jump_channel (s : State) (t : Word) (k : Fin 64) : (s.jump t).channel k = s.channel k := rfl

/-! `pushReturn` -/

@[simp] theorem pushReturn_regs (s : State) : (s.pushReturn).regs = s.regs := rfl
@[simp] theorem pushReturn_channels (s : State) : (s.pushReturn).channels = s.channels := rfl
@[simp] theorem pushReturn_stk (s : State) : (s.pushReturn).stk = s.stk.set s.sp.toFin s.pc := rfl
@[simp] theorem pushReturn_sp (s : State) : (s.pushReturn).sp = s.sp + 1 := rfl
@[simp] theorem pushReturn_pc (s : State) : (s.pushReturn).pc = s.pc := rfl
@[simp] theorem pushReturn_halted (s : State) : (s.pushReturn).halted = s.halted := rfl
@[simp] theorem pushReturn_phase (s : State) : (s.pushReturn).phase = s.phase := rfl
@[simp] theorem pushReturn_cur (s : State) : (s.pushReturn).cur = s.cur := rfl
@[simp] theorem pushReturn_fault (s : State) : (s.pushReturn).fault = s.fault := rfl
@[simp] theorem pushReturn_status (s : State) : (s.pushReturn).status = s.status := rfl
@[simp] theorem pushReturn_commands (s : State) : (s.pushReturn).commands = s.commands := rfl
@[simp] theorem pushReturn_code (s : State) : (s.pushReturn).code = s.code := rfl
@[simp] theorem pushReturn_config (s : State) : (s.pushReturn).config = s.config := rfl
@[simp] theorem pushReturn_host (s : State) : (s.pushReturn).host = s.host := rfl
@[simp] theorem pushReturn_replies (s : State) : (s.pushReturn).replies = s.replies := rfl
@[simp] theorem pushReturn_reg (s : State) (q : RegIx) : (s.pushReturn).reg q = s.reg q := rfl
@[simp] theorem pushReturn_int (s : State) (q : RegIx) : (s.pushReturn).int q = s.int q := rfl
@[simp] theorem pushReturn_channel (s : State) (k : Fin 64) : (s.pushReturn).channel k = s.channel k := rfl

/-! `popReturn` -/

@[simp] theorem popReturn_regs (s : State) : (s.popReturn).regs = s.regs := rfl
@[simp] theorem popReturn_channels (s : State) : (s.popReturn).channels = s.channels := rfl
@[simp] theorem popReturn_stk (s : State) : (s.popReturn).stk = s.stk := rfl
@[simp] theorem popReturn_sp (s : State) : (s.popReturn).sp = s.sp - 1 := rfl
@[simp] theorem popReturn_pc (s : State) : (s.popReturn).pc = s.slot (s.sp - 1) := rfl
@[simp] theorem popReturn_halted (s : State) : (s.popReturn).halted = s.halted := rfl
@[simp] theorem popReturn_phase (s : State) : (s.popReturn).phase = s.phase := rfl
@[simp] theorem popReturn_cur (s : State) : (s.popReturn).cur = s.cur := rfl
@[simp] theorem popReturn_fault (s : State) : (s.popReturn).fault = s.fault := rfl
@[simp] theorem popReturn_status (s : State) : (s.popReturn).status = s.status := rfl
@[simp] theorem popReturn_commands (s : State) : (s.popReturn).commands = s.commands := rfl
@[simp] theorem popReturn_code (s : State) : (s.popReturn).code = s.code := rfl
@[simp] theorem popReturn_config (s : State) : (s.popReturn).config = s.config := rfl
@[simp] theorem popReturn_host (s : State) : (s.popReturn).host = s.host := rfl
@[simp] theorem popReturn_replies (s : State) : (s.popReturn).replies = s.replies := rfl
@[simp] theorem popReturn_reg (s : State) (q : RegIx) : (s.popReturn).reg q = s.reg q := rfl
@[simp] theorem popReturn_int (s : State) (q : RegIx) : (s.popReturn).int q = s.int q := rfl
@[simp] theorem popReturn_slot (s : State) (k : Byte) : (s.popReturn).slot k = s.slot k := rfl
@[simp] theorem popReturn_channel (s : State) (k : Fin 64) : (s.popReturn).channel k = s.channel k := rfl

/-! `setChannel` -/

@[simp] theorem setChannel_regs (s : State) (c : Fin 64) (ch : Channel) : (s.setChannel c ch).regs = s.regs := rfl
@[simp] theorem setChannel_channels (s : State) (c : Fin 64) (ch : Channel) : (s.setChannel c ch).channels = s.channels.set c ch := rfl
@[simp] theorem setChannel_stk (s : State) (c : Fin 64) (ch : Channel) : (s.setChannel c ch).stk = s.stk := rfl
@[simp] theorem setChannel_sp (s : State) (c : Fin 64) (ch : Channel) : (s.setChannel c ch).sp = s.sp := rfl
@[simp] theorem setChannel_pc (s : State) (c : Fin 64) (ch : Channel) : (s.setChannel c ch).pc = s.pc := rfl
@[simp] theorem setChannel_halted (s : State) (c : Fin 64) (ch : Channel) : (s.setChannel c ch).halted = s.halted := rfl
@[simp] theorem setChannel_phase (s : State) (c : Fin 64) (ch : Channel) : (s.setChannel c ch).phase = s.phase := rfl
@[simp] theorem setChannel_cur (s : State) (c : Fin 64) (ch : Channel) : (s.setChannel c ch).cur = s.cur := rfl
@[simp] theorem setChannel_fault (s : State) (c : Fin 64) (ch : Channel) : (s.setChannel c ch).fault = s.fault := rfl
@[simp] theorem setChannel_status (s : State) (c : Fin 64) (ch : Channel) : (s.setChannel c ch).status = s.status := rfl
@[simp] theorem setChannel_commands (s : State) (c : Fin 64) (ch : Channel) : (s.setChannel c ch).commands = s.commands := rfl
@[simp] theorem setChannel_code (s : State) (c : Fin 64) (ch : Channel) : (s.setChannel c ch).code = s.code := rfl
@[simp] theorem setChannel_config (s : State) (c : Fin 64) (ch : Channel) : (s.setChannel c ch).config = s.config := rfl
@[simp] theorem setChannel_host (s : State) (c : Fin 64) (ch : Channel) : (s.setChannel c ch).host = s.host := rfl
@[simp] theorem setChannel_replies (s : State) (c : Fin 64) (ch : Channel) : (s.setChannel c ch).replies = s.replies := rfl
@[simp] theorem setChannel_reg (s : State) (c : Fin 64) (ch : Channel) (q : RegIx) : (s.setChannel c ch).reg q = s.reg q := rfl
@[simp] theorem setChannel_int (s : State) (c : Fin 64) (ch : Channel) (q : RegIx) : (s.setChannel c ch).int q = s.int q := rfl
@[simp] theorem setChannel_slot (s : State) (c : Fin 64) (ch : Channel) (k : Byte) : (s.setChannel c ch).slot k = s.slot k := rfl

/-! `setChannels` -/

@[simp] theorem setChannels_regs (s : State) (lo : Nat) (hi : Nat) (f : Channel → Channel) : (s.setChannels lo hi f).regs = s.regs := rfl
@[simp] theorem setChannels_stk (s : State) (lo : Nat) (hi : Nat) (f : Channel → Channel) : (s.setChannels lo hi f).stk = s.stk := rfl
@[simp] theorem setChannels_sp (s : State) (lo : Nat) (hi : Nat) (f : Channel → Channel) : (s.setChannels lo hi f).sp = s.sp := rfl
@[simp] theorem setChannels_pc (s : State) (lo : Nat) (hi : Nat) (f : Channel → Channel) : (s.setChannels lo hi f).pc = s.pc := rfl
@[simp] theorem setChannels_halted (s : State) (lo : Nat) (hi : Nat) (f : Channel → Channel) : (s.setChannels lo hi f).halted = s.halted := rfl
@[simp] theorem setChannels_phase (s : State) (lo : Nat) (hi : Nat) (f : Channel → Channel) : (s.setChannels lo hi f).phase = s.phase := rfl
@[simp] theorem setChannels_cur (s : State) (lo : Nat) (hi : Nat) (f : Channel → Channel) : (s.setChannels lo hi f).cur = s.cur := rfl
@[simp] theorem setChannels_fault (s : State) (lo : Nat) (hi : Nat) (f : Channel → Channel) : (s.setChannels lo hi f).fault = s.fault := rfl
@[simp] theorem setChannels_status (s : State) (lo : Nat) (hi : Nat) (f : Channel → Channel) : (s.setChannels lo hi f).status = s.status := rfl
@[simp] theorem setChannels_commands (s : State) (lo : Nat) (hi : Nat) (f : Channel → Channel) : (s.setChannels lo hi f).commands = s.commands := rfl
@[simp] theorem setChannels_code (s : State) (lo : Nat) (hi : Nat) (f : Channel → Channel) : (s.setChannels lo hi f).code = s.code := rfl
@[simp] theorem setChannels_config (s : State) (lo : Nat) (hi : Nat) (f : Channel → Channel) : (s.setChannels lo hi f).config = s.config := rfl
@[simp] theorem setChannels_host (s : State) (lo : Nat) (hi : Nat) (f : Channel → Channel) : (s.setChannels lo hi f).host = s.host := rfl
@[simp] theorem setChannels_replies (s : State) (lo : Nat) (hi : Nat) (f : Channel → Channel) : (s.setChannels lo hi f).replies = s.replies := rfl
@[simp] theorem setChannels_reg (s : State) (lo : Nat) (hi : Nat) (f : Channel → Channel) (q : RegIx) : (s.setChannels lo hi f).reg q = s.reg q := rfl
@[simp] theorem setChannels_int (s : State) (lo : Nat) (hi : Nat) (f : Channel → Channel) (q : RegIx) : (s.setChannels lo hi f).int q = s.int q := rfl
@[simp] theorem setChannels_slot (s : State) (lo : Nat) (hi : Nat) (f : Channel → Channel) (k : Byte) : (s.setChannels lo hi f).slot k = s.slot k := rfl

/-! `emit` -/

@[simp] theorem emit_regs (s : State) (c : Command) : (s.emit c).regs = s.regs := rfl
@[simp] theorem emit_channels (s : State) (c : Command) : (s.emit c).channels = s.channels := rfl
@[simp] theorem emit_stk (s : State) (c : Command) : (s.emit c).stk = s.stk := rfl
@[simp] theorem emit_sp (s : State) (c : Command) : (s.emit c).sp = s.sp := rfl
@[simp] theorem emit_pc (s : State) (c : Command) : (s.emit c).pc = s.pc := rfl
@[simp] theorem emit_halted (s : State) (c : Command) : (s.emit c).halted = s.halted := rfl
@[simp] theorem emit_phase (s : State) (c : Command) : (s.emit c).phase = s.phase := rfl
@[simp] theorem emit_cur (s : State) (c : Command) : (s.emit c).cur = s.cur := rfl
@[simp] theorem emit_fault (s : State) (c : Command) : (s.emit c).fault = s.fault := rfl
@[simp] theorem emit_status (s : State) (c : Command) : (s.emit c).status = s.status := rfl
@[simp] theorem emit_commands (s : State) (c : Command) : (s.emit c).commands = s.commands ++ [c] := rfl
@[simp] theorem emit_code (s : State) (c : Command) : (s.emit c).code = s.code := rfl
@[simp] theorem emit_config (s : State) (c : Command) : (s.emit c).config = s.config := rfl
@[simp] theorem emit_host (s : State) (c : Command) : (s.emit c).host = s.host := rfl
@[simp] theorem emit_replies (s : State) (c : Command) : (s.emit c).replies = s.replies := rfl
@[simp] theorem emit_reg (s : State) (c : Command) (q : RegIx) : (s.emit c).reg q = s.reg q := rfl
@[simp] theorem emit_int (s : State) (c : Command) (q : RegIx) : (s.emit c).int q = s.int q := rfl
@[simp] theorem emit_slot (s : State) (c : Command) (k : Byte) : (s.emit c).slot k = s.slot k := rfl
@[simp] theorem emit_channel (s : State) (c : Command) (k : Fin 64) : (s.emit c).channel k = s.channel k := rfl

/-! `raise` -/

@[simp] theorem raise_regs (s : State) (c : FaultCause) : (s.raise c).regs = s.regs := rfl
@[simp] theorem raise_channels (s : State) (c : FaultCause) : (s.raise c).channels = s.channels := rfl
@[simp] theorem raise_stk (s : State) (c : FaultCause) : (s.raise c).stk = s.stk := rfl
@[simp] theorem raise_sp (s : State) (c : FaultCause) : (s.raise c).sp = s.sp := rfl
@[simp] theorem raise_pc (s : State) (c : FaultCause) : (s.raise c).pc = s.pc := rfl
@[simp] theorem raise_halted (s : State) (c : FaultCause) : (s.raise c).halted = s.halted := rfl
@[simp] theorem raise_phase (s : State) (c : FaultCause) : (s.raise c).phase = .faulted := rfl
@[simp] theorem raise_cur (s : State) (c : FaultCause) : (s.raise c).cur = s.cur := rfl
@[simp] theorem raise_fault (s : State) (c : FaultCause) : (s.raise c).fault = some ⟨c, s.cur, s.pc⟩ := rfl
@[simp] theorem raise_status (s : State) (c : FaultCause) : (s.raise c).status = .fault := rfl
@[simp] theorem raise_commands (s : State) (c : FaultCause) : (s.raise c).commands = s.commands := rfl
@[simp] theorem raise_code (s : State) (c : FaultCause) : (s.raise c).code = s.code := rfl
@[simp] theorem raise_config (s : State) (c : FaultCause) : (s.raise c).config = s.config := rfl
@[simp] theorem raise_host (s : State) (c : FaultCause) : (s.raise c).host = s.host := rfl
@[simp] theorem raise_replies (s : State) (c : FaultCause) : (s.raise c).replies = s.replies := rfl
@[simp] theorem raise_reg (s : State) (c : FaultCause) (q : RegIx) : (s.raise c).reg q = s.reg q := rfl
@[simp] theorem raise_int (s : State) (c : FaultCause) (q : RegIx) : (s.raise c).int q = s.int q := rfl
@[simp] theorem raise_slot (s : State) (c : FaultCause) (k : Byte) : (s.raise c).slot k = s.slot k := rfl
@[simp] theorem raise_channel (s : State) (c : FaultCause) (k : Fin 64) : (s.raise c).channel k = s.channel k := rfl

/-! `resetCore` -/

@[simp] theorem resetCore_regs (s : State) : (s.resetCore).regs = State.reset.regs := rfl
@[simp] theorem resetCore_channels (s : State) : (s.resetCore).channels = State.reset.channels := rfl
@[simp] theorem resetCore_stk (s : State) : (s.resetCore).stk = State.reset.stk := rfl
@[simp] theorem resetCore_sp (s : State) : (s.resetCore).sp = State.reset.sp := rfl
@[simp] theorem resetCore_pc (s : State) : (s.resetCore).pc = State.reset.pc := rfl
@[simp] theorem resetCore_halted (s : State) : (s.resetCore).halted = State.reset.halted := rfl
@[simp] theorem resetCore_phase (s : State) : (s.resetCore).phase = State.reset.phase := rfl
@[simp] theorem resetCore_cur (s : State) : (s.resetCore).cur = State.reset.cur := rfl
@[simp] theorem resetCore_fault (s : State) : (s.resetCore).fault = State.reset.fault := rfl
@[simp] theorem resetCore_status (s : State) : (s.resetCore).status = State.reset.status := rfl
@[simp] theorem resetCore_commands (s : State) : (s.resetCore).commands = State.reset.commands := rfl
@[simp] theorem resetCore_code (s : State) : (s.resetCore).code = s.code := rfl
@[simp] theorem resetCore_config (s : State) : (s.resetCore).config = s.config := rfl
@[simp] theorem resetCore_host (s : State) : (s.resetCore).host = s.host := rfl
@[simp] theorem resetCore_replies (s : State) : (s.resetCore).replies = s.replies := rfl

/-! `setHalted` -/

@[simp] theorem setHalted_regs (s : State) : (s.setHalted).regs = s.regs := rfl
@[simp] theorem setHalted_channels (s : State) : (s.setHalted).channels = s.channels := rfl
@[simp] theorem setHalted_stk (s : State) : (s.setHalted).stk = s.stk := rfl
@[simp] theorem setHalted_sp (s : State) : (s.setHalted).sp = s.sp := rfl
@[simp] theorem setHalted_pc (s : State) : (s.setHalted).pc = s.pc := rfl
@[simp] theorem setHalted_halted (s : State) : (s.setHalted).halted = true := rfl
@[simp] theorem setHalted_phase (s : State) : (s.setHalted).phase = s.phase := rfl
@[simp] theorem setHalted_cur (s : State) : (s.setHalted).cur = s.cur := rfl
@[simp] theorem setHalted_fault (s : State) : (s.setHalted).fault = s.fault := rfl
@[simp] theorem setHalted_status (s : State) : (s.setHalted).status = s.status := rfl
@[simp] theorem setHalted_commands (s : State) : (s.setHalted).commands = s.commands := rfl
@[simp] theorem setHalted_code (s : State) : (s.setHalted).code = s.code := rfl
@[simp] theorem setHalted_config (s : State) : (s.setHalted).config = s.config := rfl
@[simp] theorem setHalted_host (s : State) : (s.setHalted).host = s.host := rfl
@[simp] theorem setHalted_replies (s : State) : (s.setHalted).replies = s.replies := rfl
@[simp] theorem setHalted_reg (s : State) (q : RegIx) : (s.setHalted).reg q = s.reg q := rfl
@[simp] theorem setHalted_int (s : State) (q : RegIx) : (s.setHalted).int q = s.int q := rfl
@[simp] theorem setHalted_slot (s : State) (k : Byte) : (s.setHalted).slot k = s.slot k := rfl
@[simp] theorem setHalted_channel (s : State) (k : Fin 64) : (s.setHalted).channel k = s.channel k := rfl

/-! `setup` -/

@[simp] theorem setup_regs (s : State) : (s.setup).regs = s.regs := rfl
@[simp] theorem setup_channels (s : State) : (s.setup).channels = s.channels.map Channel.commit := rfl
@[simp] theorem setup_stk (s : State) : (s.setup).stk = s.stk := rfl
@[simp] theorem setup_sp (s : State) : (s.setup).sp = s.sp := rfl
@[simp] theorem setup_pc (s : State) : (s.setup).pc = s.pc := rfl
@[simp] theorem setup_halted (s : State) : (s.setup).halted = s.halted := rfl
@[simp] theorem setup_phase (s : State) : (s.setup).phase = s.phase := rfl
@[simp] theorem setup_cur (s : State) : (s.setup).cur = s.cur := rfl
@[simp] theorem setup_fault (s : State) : (s.setup).fault = s.fault := rfl
@[simp] theorem setup_status (s : State) : (s.setup).status = s.status := rfl
@[simp] theorem setup_commands (s : State) : (s.setup).commands = s.commands := rfl
@[simp] theorem setup_code (s : State) : (s.setup).code = s.code := rfl
@[simp] theorem setup_config (s : State) : (s.setup).config = s.config := rfl
@[simp] theorem setup_host (s : State) : (s.setup).host = s.host := rfl
@[simp] theorem setup_replies (s : State) : (s.setup).replies = s.replies := rfl
@[simp] theorem setup_reg (s : State) (q : RegIx) : (s.setup).reg q = s.reg q := rfl
@[simp] theorem setup_int (s : State) (q : RegIx) : (s.setup).int q = s.int q := rfl
@[simp] theorem setup_slot (s : State) (k : Byte) : (s.setup).slot k = s.slot k := rfl

/-! `restartAt` -/

@[simp] theorem restartAt_regs (s : State) (e : Word) : (s.restartAt e).regs = s.regs := rfl
@[simp] theorem restartAt_stk (s : State) (e : Word) : (s.restartAt e).stk = s.stk := rfl
@[simp] theorem restartAt_sp (s : State) (e : Word) : (s.restartAt e).sp = s.sp := rfl
@[simp] theorem restartAt_pc (s : State) (e : Word) : (s.restartAt e).pc = s.pc := rfl
@[simp] theorem restartAt_halted (s : State) (e : Word) : (s.restartAt e).halted = s.halted := rfl
@[simp] theorem restartAt_phase (s : State) (e : Word) : (s.restartAt e).phase = s.phase := rfl
@[simp] theorem restartAt_cur (s : State) (e : Word) : (s.restartAt e).cur = s.cur := rfl
@[simp] theorem restartAt_fault (s : State) (e : Word) : (s.restartAt e).fault = s.fault := rfl
@[simp] theorem restartAt_status (s : State) (e : Word) : (s.restartAt e).status = s.status := rfl
@[simp] theorem restartAt_commands (s : State) (e : Word) : (s.restartAt e).commands = s.commands := rfl
@[simp] theorem restartAt_code (s : State) (e : Word) : (s.restartAt e).code = s.code := rfl
@[simp] theorem restartAt_config (s : State) (e : Word) : (s.restartAt e).config = s.config := rfl
@[simp] theorem restartAt_host (s : State) (e : Word) : (s.restartAt e).host = s.host := rfl
@[simp] theorem restartAt_replies (s : State) (e : Word) : (s.restartAt e).replies = s.replies := rfl
@[simp] theorem restartAt_reg (s : State) (e : Word) (q : RegIx) : (s.restartAt e).reg q = s.reg q := rfl
@[simp] theorem restartAt_int (s : State) (e : Word) (q : RegIx) : (s.restartAt e).int q = s.int q := rfl
@[simp] theorem restartAt_slot (s : State) (e : Word) (k : Byte) : (s.restartAt e).slot k = s.slot k := rfl

/-! `startRun` -/

@[simp] theorem startRun_regs (s : State) : (s.startRun).regs = s.regs := rfl
@[simp] theorem startRun_channels (s : State) : (s.startRun).channels = s.channels := rfl
@[simp] theorem startRun_stk (s : State) : (s.startRun).stk = s.stk := rfl
@[simp] theorem startRun_sp (s : State) : (s.startRun).sp = s.sp := rfl
@[simp] theorem startRun_pc (s : State) : (s.startRun).pc = s.pc := rfl
@[simp] theorem startRun_halted (s : State) : (s.startRun).halted = s.halted := rfl
@[simp] theorem startRun_phase (s : State) : (s.startRun).phase = .select := rfl
@[simp] theorem startRun_cur (s : State) : (s.startRun).cur = 0 := rfl
@[simp] theorem startRun_fault (s : State) : (s.startRun).fault = s.fault := rfl
@[simp] theorem startRun_status (s : State) : (s.startRun).status = s.status := rfl
@[simp] theorem startRun_commands (s : State) : (s.startRun).commands = s.commands := rfl
@[simp] theorem startRun_code (s : State) : (s.startRun).code = s.code := rfl
@[simp] theorem startRun_config (s : State) : (s.startRun).config = s.config := rfl
@[simp] theorem startRun_host (s : State) : (s.startRun).host = s.host := rfl
@[simp] theorem startRun_replies (s : State) : (s.startRun).replies = s.replies := rfl
@[simp] theorem startRun_reg (s : State) (q : RegIx) : (s.startRun).reg q = s.reg q := rfl
@[simp] theorem startRun_int (s : State) (q : RegIx) : (s.startRun).int q = s.int q := rfl
@[simp] theorem startRun_slot (s : State) (k : Byte) : (s.startRun).slot k = s.slot k := rfl
@[simp] theorem startRun_channel (s : State) (k : Fin 64) : (s.startRun).channel k = s.channel k := rfl

/-! `startTurn` -/

@[simp] theorem startTurn_regs (s : State) (o : Word) : (s.startTurn o).regs = s.regs := rfl
@[simp] theorem startTurn_channels (s : State) (o : Word) : (s.startTurn o).channels = s.channels := rfl
@[simp] theorem startTurn_stk (s : State) (o : Word) : (s.startTurn o).stk = s.stk := rfl
@[simp] theorem startTurn_sp (s : State) (o : Word) : (s.startTurn o).sp = 0 := rfl
@[simp] theorem startTurn_pc (s : State) (o : Word) : (s.startTurn o).pc = o := rfl
@[simp] theorem startTurn_halted (s : State) (o : Word) : (s.startTurn o).halted = false := rfl
@[simp] theorem startTurn_phase (s : State) (o : Word) : (s.startTurn o).phase = .exec := rfl
@[simp] theorem startTurn_cur (s : State) (o : Word) : (s.startTurn o).cur = s.cur := rfl
@[simp] theorem startTurn_fault (s : State) (o : Word) : (s.startTurn o).fault = s.fault := rfl
@[simp] theorem startTurn_status (s : State) (o : Word) : (s.startTurn o).status = s.status := rfl
@[simp] theorem startTurn_commands (s : State) (o : Word) : (s.startTurn o).commands = s.commands := rfl
@[simp] theorem startTurn_code (s : State) (o : Word) : (s.startTurn o).code = s.code := rfl
@[simp] theorem startTurn_config (s : State) (o : Word) : (s.startTurn o).config = s.config := rfl
@[simp] theorem startTurn_host (s : State) (o : Word) : (s.startTurn o).host = s.host := rfl
@[simp] theorem startTurn_replies (s : State) (o : Word) : (s.startTurn o).replies = s.replies := rfl
@[simp] theorem startTurn_reg (s : State) (o : Word) (q : RegIx) : (s.startTurn o).reg q = s.reg q := rfl
@[simp] theorem startTurn_int (s : State) (o : Word) (q : RegIx) : (s.startTurn o).int q = s.int q := rfl
@[simp] theorem startTurn_slot (s : State) (o : Word) (k : Byte) : (s.startTurn o).slot k = s.slot k := rfl
@[simp] theorem startTurn_channel (s : State) (o : Word) (k : Fin 64) : (s.startTurn o).channel k = s.channel k := rfl

/-! `endRun` -/

@[simp] theorem endRun_regs (s : State) (st : RunStatus) : (s.endRun st).regs = s.regs := rfl
@[simp] theorem endRun_channels (s : State) (st : RunStatus) : (s.endRun st).channels = s.channels := rfl
@[simp] theorem endRun_stk (s : State) (st : RunStatus) : (s.endRun st).stk = s.stk := rfl
@[simp] theorem endRun_sp (s : State) (st : RunStatus) : (s.endRun st).sp = s.sp := rfl
@[simp] theorem endRun_pc (s : State) (st : RunStatus) : (s.endRun st).pc = s.pc := rfl
@[simp] theorem endRun_halted (s : State) (st : RunStatus) : (s.endRun st).halted = s.halted := rfl
@[simp] theorem endRun_phase (s : State) (st : RunStatus) : (s.endRun st).phase = .idle := rfl
@[simp] theorem endRun_cur (s : State) (st : RunStatus) : (s.endRun st).cur = s.cur := rfl
@[simp] theorem endRun_fault (s : State) (st : RunStatus) : (s.endRun st).fault = s.fault := rfl
@[simp] theorem endRun_status (s : State) (st : RunStatus) : (s.endRun st).status = st := rfl
@[simp] theorem endRun_commands (s : State) (st : RunStatus) : (s.endRun st).commands = s.commands := rfl
@[simp] theorem endRun_code (s : State) (st : RunStatus) : (s.endRun st).code = s.code := rfl
@[simp] theorem endRun_config (s : State) (st : RunStatus) : (s.endRun st).config = s.config := rfl
@[simp] theorem endRun_host (s : State) (st : RunStatus) : (s.endRun st).host = s.host := rfl
@[simp] theorem endRun_replies (s : State) (st : RunStatus) : (s.endRun st).replies = s.replies := rfl
@[simp] theorem endRun_reg (s : State) (st : RunStatus) (q : RegIx) : (s.endRun st).reg q = s.reg q := rfl
@[simp] theorem endRun_int (s : State) (st : RunStatus) (q : RegIx) : (s.endRun st).int q = s.int q := rfl
@[simp] theorem endRun_slot (s : State) (st : RunStatus) (k : Byte) : (s.endRun st).slot k = s.slot k := rfl
@[simp] theorem endRun_channel (s : State) (st : RunStatus) (k : Fin 64) : (s.endRun st).channel k = s.channel k := rfl

/-! `persist` -/

@[simp] theorem persist_regs (s : State) (c : Fin 64) : (s.persist c).regs = s.regs := rfl
@[simp] theorem persist_channels (s : State) (c : Fin 64) : (s.persist c).channels = s.channels.set c { s.channel c with curOff := s.pc } := rfl
@[simp] theorem persist_stk (s : State) (c : Fin 64) : (s.persist c).stk = s.stk := rfl
@[simp] theorem persist_sp (s : State) (c : Fin 64) : (s.persist c).sp = s.sp := rfl
@[simp] theorem persist_pc (s : State) (c : Fin 64) : (s.persist c).pc = s.pc := rfl
@[simp] theorem persist_halted (s : State) (c : Fin 64) : (s.persist c).halted = s.halted := rfl
@[simp] theorem persist_phase (s : State) (c : Fin 64) : (s.persist c).phase = s.phase := rfl
@[simp] theorem persist_cur (s : State) (c : Fin 64) : (s.persist c).cur = s.cur := rfl
@[simp] theorem persist_fault (s : State) (c : Fin 64) : (s.persist c).fault = s.fault := rfl
@[simp] theorem persist_status (s : State) (c : Fin 64) : (s.persist c).status = s.status := rfl
@[simp] theorem persist_commands (s : State) (c : Fin 64) : (s.persist c).commands = s.commands := rfl
@[simp] theorem persist_code (s : State) (c : Fin 64) : (s.persist c).code = s.code := rfl
@[simp] theorem persist_config (s : State) (c : Fin 64) : (s.persist c).config = s.config := rfl
@[simp] theorem persist_host (s : State) (c : Fin 64) : (s.persist c).host = s.host := rfl
@[simp] theorem persist_replies (s : State) (c : Fin 64) : (s.persist c).replies = s.replies := rfl
@[simp] theorem persist_reg (s : State) (c : Fin 64) (q : RegIx) : (s.persist c).reg q = s.reg q := rfl
@[simp] theorem persist_int (s : State) (c : Fin 64) (q : RegIx) : (s.persist c).int q = s.int q := rfl
@[simp] theorem persist_slot (s : State) (c : Fin 64) (k : Byte) : (s.persist c).slot k = s.slot k := rfl

/-! `reply` -/

@[simp] theorem reply_regs (s : State) (r : HostReply) : (s.reply r).regs = s.regs := rfl
@[simp] theorem reply_channels (s : State) (r : HostReply) : (s.reply r).channels = s.channels := rfl
@[simp] theorem reply_stk (s : State) (r : HostReply) : (s.reply r).stk = s.stk := rfl
@[simp] theorem reply_sp (s : State) (r : HostReply) : (s.reply r).sp = s.sp := rfl
@[simp] theorem reply_pc (s : State) (r : HostReply) : (s.reply r).pc = s.pc := rfl
@[simp] theorem reply_halted (s : State) (r : HostReply) : (s.reply r).halted = s.halted := rfl
@[simp] theorem reply_phase (s : State) (r : HostReply) : (s.reply r).phase = s.phase := rfl
@[simp] theorem reply_cur (s : State) (r : HostReply) : (s.reply r).cur = s.cur := rfl
@[simp] theorem reply_fault (s : State) (r : HostReply) : (s.reply r).fault = s.fault := rfl
@[simp] theorem reply_status (s : State) (r : HostReply) : (s.reply r).status = s.status := rfl
@[simp] theorem reply_commands (s : State) (r : HostReply) : (s.reply r).commands = s.commands := rfl
@[simp] theorem reply_code (s : State) (r : HostReply) : (s.reply r).code = s.code := rfl
@[simp] theorem reply_config (s : State) (r : HostReply) : (s.reply r).config = s.config := rfl
@[simp] theorem reply_host (s : State) (r : HostReply) : (s.reply r).host = s.host := rfl
@[simp] theorem reply_replies (s : State) (r : HostReply) : (s.reply r).replies = s.replies ++ [r] := rfl
@[simp] theorem reply_reg (s : State) (r : HostReply) (q : RegIx) : (s.reply r).reg q = s.reg q := rfl
@[simp] theorem reply_int (s : State) (r : HostReply) (q : RegIx) : (s.reply r).int q = s.int q := rfl
@[simp] theorem reply_slot (s : State) (r : HostReply) (k : Byte) : (s.reply r).slot k = s.slot k := rfl
@[simp] theorem reply_channel (s : State) (r : HostReply) (k : Fin 64) : (s.reply r).channel k = s.channel k := rfl

/-! `loadState` -/

@[simp] theorem loadState_regs (s : State) (regs : Bank Word 256) (table : Bank Channel 64) : (s.loadState regs table).regs = regs := rfl
@[simp] theorem loadState_channels (s : State) (regs : Bank Word 256) (table : Bank Channel 64) : (s.loadState regs table).channels = table := rfl
@[simp] theorem loadState_stk (s : State) (regs : Bank Word 256) (table : Bank Channel 64) : (s.loadState regs table).stk = s.stk := rfl
@[simp] theorem loadState_sp (s : State) (regs : Bank Word 256) (table : Bank Channel 64) : (s.loadState regs table).sp = s.sp := rfl
@[simp] theorem loadState_pc (s : State) (regs : Bank Word 256) (table : Bank Channel 64) : (s.loadState regs table).pc = s.pc := rfl
@[simp] theorem loadState_halted (s : State) (regs : Bank Word 256) (table : Bank Channel 64) : (s.loadState regs table).halted = s.halted := rfl
@[simp] theorem loadState_phase (s : State) (regs : Bank Word 256) (table : Bank Channel 64) : (s.loadState regs table).phase = s.phase := rfl
@[simp] theorem loadState_cur (s : State) (regs : Bank Word 256) (table : Bank Channel 64) : (s.loadState regs table).cur = s.cur := rfl
@[simp] theorem loadState_fault (s : State) (regs : Bank Word 256) (table : Bank Channel 64) : (s.loadState regs table).fault = s.fault := rfl
@[simp] theorem loadState_status (s : State) (regs : Bank Word 256) (table : Bank Channel 64) : (s.loadState regs table).status = s.status := rfl
@[simp] theorem loadState_commands (s : State) (regs : Bank Word 256) (table : Bank Channel 64) : (s.loadState regs table).commands = s.commands := rfl
@[simp] theorem loadState_code (s : State) (regs : Bank Word 256) (table : Bank Channel 64) : (s.loadState regs table).code = s.code := rfl
@[simp] theorem loadState_config (s : State) (regs : Bank Word 256) (table : Bank Channel 64) : (s.loadState regs table).config = s.config := rfl
@[simp] theorem loadState_host (s : State) (regs : Bank Word 256) (table : Bank Channel 64) : (s.loadState regs table).host = s.host := rfl
@[simp] theorem loadState_replies (s : State) (regs : Bank Word 256) (table : Bank Channel 64) : (s.loadState regs table).replies = s.replies := rfl
@[simp] theorem loadState_slot (s : State) (regs : Bank Word 256) (table : Bank Channel 64) (k : Byte) : (s.loadState regs table).slot k = s.slot k := rfl

/-! `tookInput` -/

@[simp] theorem tookInput_regs (s : State) : (s.tookInput).regs = s.regs := rfl
@[simp] theorem tookInput_channels (s : State) : (s.tookInput).channels = s.channels := rfl
@[simp] theorem tookInput_stk (s : State) : (s.tookInput).stk = s.stk := rfl
@[simp] theorem tookInput_sp (s : State) : (s.tookInput).sp = s.sp := rfl
@[simp] theorem tookInput_pc (s : State) : (s.tookInput).pc = s.pc := rfl
@[simp] theorem tookInput_halted (s : State) : (s.tookInput).halted = s.halted := rfl
@[simp] theorem tookInput_phase (s : State) : (s.tookInput).phase = s.phase := rfl
@[simp] theorem tookInput_cur (s : State) : (s.tookInput).cur = s.cur := rfl
@[simp] theorem tookInput_fault (s : State) : (s.tookInput).fault = s.fault := rfl
@[simp] theorem tookInput_status (s : State) : (s.tookInput).status = s.status := rfl
@[simp] theorem tookInput_commands (s : State) : (s.tookInput).commands = s.commands := rfl
@[simp] theorem tookInput_code (s : State) : (s.tookInput).code = s.code := rfl
@[simp] theorem tookInput_config (s : State) : (s.tookInput).config = s.config := rfl
@[simp] theorem tookInput_host (s : State) : (s.tookInput).host = s.host.tail := rfl
@[simp] theorem tookInput_replies (s : State) : (s.tookInput).replies = s.replies := rfl
@[simp] theorem tookInput_reg (s : State) (q : RegIx) : (s.tookInput).reg q = s.reg q := rfl
@[simp] theorem tookInput_int (s : State) (q : RegIx) : (s.tookInput).int q = s.int q := rfl
@[simp] theorem tookInput_slot (s : State) (k : Byte) : (s.tookInput).slot k = s.slot k := rfl
@[simp] theorem tookInput_channel (s : State) (k : Fin 64) : (s.tookInput).channel k = s.channel k := rfl

/-! `aboutToFetch` -/

@[simp] theorem aboutToFetch_regs (s : State) (bs : List Byte) : (s.aboutToFetch bs).regs = s.regs := rfl
@[simp] theorem aboutToFetch_channels (s : State) (bs : List Byte) : (s.aboutToFetch bs).channels = s.channels := rfl
@[simp] theorem aboutToFetch_stk (s : State) (bs : List Byte) : (s.aboutToFetch bs).stk = s.stk := rfl
@[simp] theorem aboutToFetch_sp (s : State) (bs : List Byte) : (s.aboutToFetch bs).sp = s.sp := rfl
@[simp] theorem aboutToFetch_pc (s : State) (bs : List Byte) : (s.aboutToFetch bs).pc = s.loadPoint := rfl
@[simp] theorem aboutToFetch_halted (s : State) (bs : List Byte) : (s.aboutToFetch bs).halted = false := rfl
@[simp] theorem aboutToFetch_phase (s : State) (bs : List Byte) : (s.aboutToFetch bs).phase = .exec := rfl
@[simp] theorem aboutToFetch_cur (s : State) (bs : List Byte) : (s.aboutToFetch bs).cur = s.cur := rfl
@[simp] theorem aboutToFetch_fault (s : State) (bs : List Byte) : (s.aboutToFetch bs).fault = s.fault := rfl
@[simp] theorem aboutToFetch_status (s : State) (bs : List Byte) : (s.aboutToFetch bs).status = s.status := rfl
@[simp] theorem aboutToFetch_commands (s : State) (bs : List Byte) : (s.aboutToFetch bs).commands = s.commands := rfl
@[simp] theorem aboutToFetch_code (s : State) (bs : List Byte) : (s.aboutToFetch bs).code = s.code.place s.loadPoint.toNat bs := rfl
@[simp] theorem aboutToFetch_config (s : State) (bs : List Byte) : (s.aboutToFetch bs).config = s.config := rfl
@[simp] theorem aboutToFetch_host (s : State) (bs : List Byte) : (s.aboutToFetch bs).host = .quiet :: s.host := rfl
@[simp] theorem aboutToFetch_replies (s : State) (bs : List Byte) : (s.aboutToFetch bs).replies = s.replies := rfl
@[simp] theorem aboutToFetch_reg (s : State) (bs : List Byte) (q : RegIx) : (s.aboutToFetch bs).reg q = s.reg q := rfl
@[simp] theorem aboutToFetch_int (s : State) (bs : List Byte) (q : RegIx) : (s.aboutToFetch bs).int q = s.int q := rfl
@[simp] theorem aboutToFetch_slot (s : State) (bs : List Byte) (k : Byte) : (s.aboutToFetch bs).slot k = s.slot k := rfl
@[simp] theorem aboutToFetch_channel (s : State) (bs : List Byte) (k : Fin 64) : (s.aboutToFetch bs).channel k = s.channel k := rfl

/-! The readers after the updates they see -/

/-- A register after a write (10_state R21): no register is hardwired. -/
@[simp] theorem setReg_reg (s : State) (r q : RegIx) (v : Word) :
    (s.setReg r v).reg q = if q = r then v else s.reg q := by
  by_cases h : q = r
  · subst h; simp [State.reg]
  · have hne : r.toFin ≠ q.toFin := fun he => h (BitVec.eq_of_toFin_eq he.symm)
    simp [State.reg, h, Bank.get_set_ne _ hne]

/-- A register's integer after a write. -/
@[simp] theorem setReg_int (s : State) (r q : RegIx) (v : Word) :
    (s.setReg r v).int q = if q = r then v.toInt else s.int q := by
  simp only [State.int, setReg_reg]; split <;> rfl

/-- The pushed return offset stands at the old `sp` (43_control_flow R201). -/
@[simp] theorem pushReturn_slot (s : State) (k : Byte) : s.pushReturn.slot k = if k = s.sp then s.pc else s.slot k := by
  by_cases h : k = s.sp
  · subst h; simp [State.slot]
  · have hne : s.sp.toFin ≠ k.toFin := fun he => h (BitVec.eq_of_toFin_eq he.symm)
    simp [State.slot, h, Bank.get_set_ne _ hne]

@[simp] theorem setChannel_channel (s : State) (c k : Fin 64) (ch : Channel) :
    (s.setChannel c ch).channel k = if k = c then ch else s.channel k := by
  by_cases h : k = c
  · subst h; simp [State.channel]
  · simp [State.channel, h, Bank.get_set_ne _ (Ne.symm h)]

/-- The range of a bulk write, both ends included (44_channel_ops R221). -/
@[simp] theorem setChannels_channel (s : State) (lo hi : Nat) (f : Channel → Channel) (k : Fin 64) :
    (s.setChannels lo hi f).channel k = if lo ≤ k.val ∧ k.val ≤ hi then f (s.channel k) else s.channel k := by
  simp [State.channel, State.setChannels]

/-- Every row is committed (40_scheduler R133). -/
@[simp] theorem setup_channel (s : State) (k : Fin 64) : s.setup.channel k = (s.channel k).commit := by
  simp [State.channel]

/-- The rows `RESTART_AT` leaves (40_scheduler R132). -/
@[simp] theorem restartAt_channel (s : State) (e : Word) (k : Fin 64) :
    (s.restartAt e).channel k =
      if k = 0 then { Channel.unscheduled with curOff := e } else Channel.unscheduled := by
  by_cases h : k = 0
  · subst h; simp [State.channel, State.restartAt]
  · simp [State.channel, State.restartAt, h, Bank.get_set_ne _ (Ne.symm h)]

@[simp] theorem persist_channel (s : State) (c k : Fin 64) :
    (s.persist c).channel k = if k = c then { s.channel c with curOff := s.pc } else s.channel k := by
  simp [State.persist]

@[simp] theorem reset_reg (r : RegIx) : State.reset.reg r = 0 := by simp [State.reg, State.reset]

@[simp] theorem reset_channel (c : Fin 64) : State.reset.channel c = Channel.unscheduled := by
  simp [State.channel, State.reset]

@[simp] theorem reset_slot (k : Byte) : State.reset.slot k = 0 := by simp [State.slot, State.reset]

@[simp] theorem loadState_reg (s : State) (regs : Bank Word 256) (table : Bank Channel 64) (r : RegIx) :
    (s.loadState regs table).reg r = regs.get r.toFin := rfl

@[simp] theorem loadState_channel (s : State) (regs : Bank Word 256) (table : Bank Channel 64) (c : Fin 64) :
    (s.loadState regs table).channel c = table.get c := rfl

end Sys2Proof.Machine
end

