-- ==== Sys2Proof/Laws/Steps.lean ====
section
/-! SUPPORT. Once, for each shared operation that answers an outcome: everything it can do. Later proofs cite these and
unfold no step. -/

namespace Sys2Proof.Machine

/-! ### Fetching -/

/-- A fetch that answers an instruction decoded the window at the cursor. -/
theorem fetch_ok {s : State} {i : Instr} (h : s.fetch = .ok i) :
    ∃ rest, decode s.config s.codeWindow = .ok (i, rest) := by
  simp only [State.fetch] at h
  split at h
  · rename_i j rest hd
    cases h
    exact ⟨rest, hd⟩
  · cases h

/-- A window that decodes is fetched. -/
theorem fetch_of_decode {s : State} {i : Instr} {rest : List Byte} (h : decode s.config s.codeWindow = .ok (i, rest)) :
    s.fetch = .ok i := by
  simp only [State.fetch, h]

/-- A fetch that fails ran off the end of the window. -/
theorem fetch_error {s : State} {a : Word} (h : s.fetch = .error a) :
    decode s.config s.codeWindow = .error .truncated ∧ a = s.pc + BitVec.ofNat 16 s.codeWindow.length := by
  simp only [State.fetch] at h
  split at h
  · cases h
  · rename_i hd
    cases h
    exact ⟨hd, rfl⟩

/-- A window that is too short is the fault's offset. -/
theorem fetch_of_truncated {s : State} (h : decode s.config s.codeWindow = .error .truncated) :
    s.fetch = .error (s.pc + BitVec.ofNat 16 s.codeWindow.length) := by
  simp only [State.fetch, h]

@[simp] theorem tookInput_codeWindow (s : State) : s.tookInput.codeWindow = s.codeWindow := rfl

@[simp] theorem tookInput_fetch (s : State) : s.tookInput.fetch = s.fetch := rfl

/-! ### Leaving a turn -/

/-- The end of a turn (40_scheduler R138) needs a channel. -/
theorem endTurn_next {s t : State} (h : s.endTurn = .next t) :
    ∃ hc : s.cur.val < 64,
      t = { s.persist ⟨s.cur.val, hc⟩ with cur := nextChannel ⟨s.cur.val, hc⟩, phase := .select } := by
  simp only [State.endTurn] at h
  split at h
  · rename_i hc
    cases h
    exact ⟨hc, rfl⟩
  · cases h

/-- Quit inside a turn (40_scheduler R140) needs a channel. -/
theorem abortTurn_next {s t : State} (h : s.abortTurn = .next t) :
    ∃ hc : s.cur.val < 64, t = (s.persist ⟨s.cur.val, hc⟩).endRun .aborted := by
  simp only [State.abortTurn] at h
  split at h
  · rename_i hc
    cases h
    exact ⟨hc, rfl⟩
  · cases h

/-- What the `SELECT` step can do (40_scheduler R135). -/
theorem selectStep_cases (s : State) (quit : Bool) :
    (s.cur.val = 64 ∧ s.selectStep quit = s.endRun .done) ∨
    (∃ hc : s.cur.val < 64,
      (quit = true ∧ s.selectStep quit = s.endRun .aborted) ∨
      (quit = false ∧ (s.channel ⟨s.cur.val, hc⟩).runnable = true ∧
        s.selectStep quit = s.startTurn (s.channel ⟨s.cur.val, hc⟩).curOff) ∨
      (quit = false ∧ (s.channel ⟨s.cur.val, hc⟩).runnable = false ∧
        s.selectStep quit = { s with cur := nextChannel ⟨s.cur.val, hc⟩ })) := by
  by_cases hc : s.cur.val < 64
  · right
    refine ⟨hc, ?_⟩
    cases quit with
    | true => exact .inl ⟨rfl, by simp [State.selectStep, hc]⟩
    | false =>
      cases hr : (s.channel ⟨s.cur.val, hc⟩).runnable with
      | true => exact .inr (.inl ⟨rfl, rfl, by simp [State.selectStep, hc, hr]⟩)
      | false => exact .inr (.inr ⟨rfl, rfl, by simp [State.selectStep, hc, hr]⟩)
  · exact .inl ⟨by omega, by simp [State.selectStep, hc]⟩

/-! ### Meanings with cases -/

theorem execCall_cases (t : Word) (s : State) :
    (s.sp = stackMaxDepth ∧ execCall t s = .next (s.raise (.stackOverflow t))) ∨
    (s.sp ≠ stackMaxDepth ∧ execCall t s = .next ((s.after (.call t)).pushReturn.jump t)) := by
  by_cases h : s.sp = stackMaxDepth
  · exact .inl ⟨h, if_pos h⟩
  · exact .inr ⟨h, if_neg h⟩

theorem execRet_cases (s : State) :
    (s.sp = 0 ∧ execRet s = .next (s.raise .stackUnderflow)) ∨ (s.sp ≠ 0 ∧ execRet s = .next s.popReturn) := by
  by_cases h : s.sp = 0
  · exact .inl ⟨h, if_pos h⟩
  · exact .inr ⟨h, if_neg h⟩

theorem execSetVec_cases (c : Byte) (o : Word) (s : State) :
    (64 ≤ c.toNat ∧ execSetVec c o s = .next (s.raise (.channelIndex c))) ∨
    (∃ h : c.toNat < 64, execSetVec c o s =
      .next ((s.after (.setVec c o)).setChannel ⟨c.toNat, h⟩ ((s.channel ⟨c.toNat, h⟩).request o))) := by
  by_cases h : c.toNat < 64
  · exact .inr ⟨h, dif_pos h⟩
  · exact .inl ⟨by omega, dif_neg h⟩

/-- `resetScript` writes a range, or nothing (44_channel_ops R221). -/
theorem execResetScript_cases (f l : Byte) (m : Option Byte) (s : State) :
    execResetScript f l m s = .next (s.after (.resetScript f l m)) ∨
    (∃ b, m = some b ∧ rangeInverted f l = false ∧ execResetScript f l m s =
      .next ((s.after (.resetScript f l m)).setChannels f.toNat (lastChannel l) (resetMode b))) := by
  by_cases h : rangeInverted f l = true
  · exact .inl (if_pos h)
  · cases m with
    | none => exact .inl (if_neg h)
    | some b => exact .inr ⟨b, rfl, by simpa using h, if_neg h⟩

/-- The three things one mode of `resetScript` can do to a channel. -/
theorem resetMode_cases (m : Byte) (ch : Channel) :
    resetMode m ch = ch.request sentinelKill ∨ resetMode m ch = ch.pause (m = 1) ∨ resetMode m ch = ch := by
  simp only [resetMode]
  split
  · exact .inl rfl
  · split
    · exact .inr (.inl rfl)
    · exact .inr (.inr rfl)

/-! ### The step -/

/-- What accepting `CODE_INSTALL` can do (40_scheduler R145). -/
theorem installCode_next {s t : State} {bytes : List Byte} (h : s.installCode bytes = .next t) :
    bytes.length ≤ 0xFFFF ∧ t = { s with code := CodeStore.ofBytes bytes } := by
  simp only [State.installCode] at h
  split at h
  · rename_i hl
    cases h
    exact ⟨hl, rfl⟩
  · cases h

/-- What accepting a command can do (40_scheduler R130). -/
theorem perform_cases {s t : State} {c : HostCommand} (h : s.perform c = .next t) :
    (c = .reset ∧ t = s.resetCore) ∨
    (∃ bytes, c = .codeInstall bytes ∧ bytes.length ≤ 0xFFFF ∧ t = { s with code := CodeStore.ofBytes bytes }) ∨
    (∃ e, c = .restartAt e ∧ t = s.restartAt e) ∨
    (c = .setup ∧ t = s.setup) ∨
    (c = .run ∧ t = s.startRun) ∨
    (c = .frame ∧ t = s.setup.startRun) ∨
    (∃ r v, c = .regWrite r v ∧ t = s.setReg r v) ∨
    (∃ r, c = .regRead r ∧ t = s.reply (.regRead (s.reg r))) ∨
    (c = .stateRead ∧ t = s.readState) ∨
    (∃ regs table, c = .stateLoad regs table ∧ t = s.loadState regs table) := by
  cases c with
  | reset => cases h; exact .inl ⟨rfl, rfl⟩
  | codeInstall bytes =>
    obtain ⟨hl, rfl⟩ := installCode_next h
    exact .inr (.inl ⟨bytes, rfl, hl, rfl⟩)
  | restartAt e => cases h; exact .inr (.inr (.inl ⟨e, rfl, rfl⟩))
  | setup => cases h; exact .inr (.inr (.inr (.inl ⟨rfl, rfl⟩)))
  | run => cases h; exact .inr (.inr (.inr (.inr (.inl ⟨rfl, rfl⟩))))
  | frame => cases h; exact .inr (.inr (.inr (.inr (.inr (.inl ⟨rfl, rfl⟩)))))
  | regWrite r v => cases h; exact .inr (.inr (.inr (.inr (.inr (.inr (.inl ⟨r, v, rfl, rfl⟩))))))
  | regRead r => cases h; exact .inr (.inr (.inr (.inr (.inr (.inr (.inr (.inl ⟨r, rfl, rfl⟩)))))))
  | stateRead => cases h; exact .inr (.inr (.inr (.inr (.inr (.inr (.inr (.inr (.inl ⟨rfl, rfl⟩))))))))
  | stateLoad regs table =>
    cases h; exact .inr (.inr (.inr (.inr (.inr (.inr (.inr (.inr (.inr ⟨regs, table, rfl, rfl⟩))))))))

/-- An accepted command was offered, in a phase that takes it (40_scheduler R130). -/
theorem acceptedCommand_some {s : State} {c : HostCommand} (h : s.acceptedCommand = some c) :
    s.input.command = some c ∧ c.acceptedIn s.phase = true := by
  simpa [State.acceptedCommand, Option.filter_eq_some_iff] using h

/-- Every command but `RESET` needs a phase in which the core is at rest (40_scheduler R130). -/
theorem accepted_at_rest {c : HostCommand} {p : Phase} (h : c.acceptedIn p = true) :
    c = .reset ∨ p = .idle ∨ p = .faulted := by
  cases c with
  | reset => exact .inl rfl
  | codeInstall _ => exact .inr (.inl (by simpa [HostCommand.acceptedIn] using h))
  | restartAt _ => exact .inr (.inl (by simpa [HostCommand.acceptedIn] using h))
  | setup => exact .inr (.inl (by simpa [HostCommand.acceptedIn] using h))
  | run => exact .inr (.inl (by simpa [HostCommand.acceptedIn] using h))
  | frame => exact .inr (.inl (by simpa [HostCommand.acceptedIn] using h))
  | regWrite _ _ => exact .inr (.inl (by simpa [HostCommand.acceptedIn] using h))
  | regRead _ => exact .inr (by simpa [HostCommand.acceptedIn] using h)
  | stateRead => exact .inr (by simpa [HostCommand.acceptedIn] using h)
  | stateLoad _ _ => exact .inr (.inl (by simpa [HostCommand.acceptedIn] using h))

/-- A step that accepts a command. -/
theorem step_of_accepted {s : State} {c : HostCommand} (h : s.acceptedCommand = some c) :
    step s = s.tookInput.perform c := by
  simp only [step, State.stepOnce, h]

/-- A step of the core's own. -/
theorem step_of_none {s : State} (h : s.acceptedCommand = none) :
    step s = s.tookInput.coreStep s.input.quit s.input.flipDone := by
  simp only [step, State.stepOnce, h]

/-- The step of a turn that is neither halted nor quit (40_scheduler R137). -/
theorem step_of_instr {s : State} (hp : s.phase = .exec) (hh : s.halted = false) (hc : s.acceptedCommand = none)
    (hq : s.input.quit = false) : step s = s.tookInput.instrStep := by
  rw [step_of_none hc]
  simp [State.coreStep, State.execStep, hp, hh, hq]

/-- Everything a step that answers a next state can have done (00_scope R8). -/
theorem step_cases {s t : State} (h : step s = .next t) :
    (∃ c, s.acceptedCommand = some c ∧ s.tookInput.perform c = .next t) ∨
    (s.acceptedCommand = none ∧
      ((s.phase = .idle ∧ t = s.tookInput) ∨
       (s.phase = .faulted ∧ t = s.tookInput) ∨
       (s.phase = .select ∧ t = s.tookInput.selectStep s.input.quit) ∨
       (s.phase = .waitFlip ∧ t = s.tookInput.waitStep s.input.flipDone) ∨
       (s.phase = .exec ∧ s.halted = true ∧ s.tookInput.endTurn = .next t) ∨
       (s.phase = .exec ∧ s.halted = false ∧ s.input.quit = true ∧ s.tookInput.abortTurn = .next t) ∨
       (s.phase = .exec ∧ s.halted = false ∧ s.input.quit = false ∧
         ((∃ i, s.fetch = .ok i ∧ exec i s.tookInput = .next t) ∨
          (∃ a, s.fetch = .error a ∧ t = s.tookInput.raise (.bounds a)))))) := by
  cases hc : s.acceptedCommand with
  | some c => exact .inl ⟨c, rfl, by rwa [step_of_accepted hc] at h⟩
  | none =>
    refine .inr ⟨rfl, ?_⟩
    rw [step_of_none hc] at h
    simp only [State.coreStep, tookInput_phase] at h
    cases hp : s.phase with
    | idle => rw [hp] at h; cases h; simp
    | faulted => rw [hp] at h; cases h; simp
    | select => rw [hp] at h; cases h; simp
    | waitFlip => rw [hp] at h; cases h; simp
    | exec =>
      rw [hp] at h
      simp only [State.execStep, tookInput_halted] at h
      cases hh : s.halted with
      | true => simp only [hh, if_true] at h; simp [h]
      | false =>
        simp only [hh, Bool.false_eq_true, if_false] at h
        cases hq : s.input.quit with
        | true => simp only [hq, if_true] at h; simp [h]
        | false =>
          simp only [hq, Bool.false_eq_true, if_false, State.instrStep, tookInput_fetch] at h
          cases hf : s.fetch with
          | ok i => simp only [hf] at h; simp [h]
          | error a => simp only [hf] at h; cases h; simp

end Sys2Proof.Machine
end

