-- ==== Sys2Proof/Laws/Exec.lean ====
section
/-! SUPPORT. What every instruction can do to the parts no meaning may write, and one step of a run. -/

namespace Sys2Proof.Machine

/-- The reasons an instruction itself has to take a fault (60_exceptions R251, R253, R254, R256). -/
def Raises (i : Instr) (s : State) (cause : FaultCause) : Prop :=
  (∃ op, i = .illegal op ∧ cause = .invalidOpcode op) ∨
  (∃ t, i = .call t ∧ cause = .stackOverflow t ∧ s.sp = stackMaxDepth) ∨
  (i = .ret ∧ cause = .stackUnderflow ∧ s.sp = 0) ∨
  (∃ c o, i = .setVec c o ∧ cause = .channelIndex c ∧ 64 ≤ c.toNat)

/-- Every instruction takes its fault, or leaves the scheduler's fields, the Code Store, the parameters and the host's
side alone, but for `updateDisplay`'s wait. -/
theorem exec_next {i : Instr} {s t : State} (h : exec i s = .next t) :
    (∃ cause, t = s.raise cause ∧ Raises i s cause) ∨
    (t.fault = s.fault ∧ t.status = s.status ∧ t.cur = s.cur ∧ t.code = s.code ∧ t.config = s.config ∧
      t.host = s.host ∧ t.replies = s.replies ∧
      (t.phase = s.phase ∨ (t.phase = .waitFlip ∧ t.halted = s.halted))) := by
  cases i with
  | call x =>
    rcases execCall_cases x s with ⟨h1, h2⟩ | ⟨h1, h2⟩ <;> rw [exec, h2] at h <;> cases h
    · exact .inl ⟨_, rfl, .inr (.inl ⟨_, rfl, rfl, h1⟩)⟩
    · exact .inr ⟨rfl, rfl, rfl, rfl, rfl, rfl, rfl, .inl rfl⟩
  | ret =>
    rcases execRet_cases s with ⟨h1, h2⟩ | ⟨h1, h2⟩ <;> rw [exec, h2] at h <;> cases h
    · exact .inl ⟨_, rfl, .inr (.inr (.inl ⟨rfl, rfl, h1⟩))⟩
    · exact .inr ⟨rfl, rfl, rfl, rfl, rfl, rfl, rfl, .inl rfl⟩
  | setVec c o =>
    rcases execSetVec_cases c o s with ⟨h1, h2⟩ | ⟨h1, h2⟩ <;> rw [exec, h2] at h <;> cases h
    · exact .inl ⟨_, rfl, .inr (.inr (.inr ⟨_, _, rfl, rfl, h1⟩))⟩
    · exact .inr ⟨rfl, rfl, rfl, rfl, rfl, rfl, rfl, .inl rfl⟩
  | resetScript f l m =>
    rcases execResetScript_cases f l m s with h2 | ⟨b, h0, h1, h2⟩ <;> rw [exec, h2] at h <;> cases h <;>
      exact .inr ⟨rfl, rfl, rfl, rfl, rfl, rfl, rfl, .inl rfl⟩
  | illegal op => cases h; exact .inl ⟨_, rfl, .inl ⟨_, rfl, rfl⟩⟩
  | jnz r x =>
    simp only [exec, execJnz] at h
    split at h <;> cases h <;> exact .inr ⟨rfl, rfl, rfl, rfl, rfl, rfl, rfl, .inl rfl⟩
  | condJmp c r o x =>
    simp only [exec, execCondJmp] at h
    split at h <;> cases h <;> exact .inr ⟨rfl, rfl, rfl, rfl, rfl, rfl, rfl, .inl rfl⟩
  | updateDisplay p => cases h; exact .inr ⟨rfl, rfl, rfl, rfl, rfl, rfl, rfl, .inr ⟨rfl, rfl⟩⟩
  | _ => cases h; exact .inr ⟨rfl, rfl, rfl, rfl, rfl, rfl, rfl, .inl rfl⟩

/-- Every instruction has a next state. -/
theorem exec_total (i : Instr) (s : State) : ∃ t, exec i s = .next t := by
  cases i with
  | call x => rcases execCall_cases x s with ⟨-, h⟩ | ⟨-, h⟩ <;> exact ⟨_, h⟩
  | ret => rcases execRet_cases s with ⟨-, h⟩ | ⟨-, h⟩ <;> exact ⟨_, h⟩
  | setVec c o => rcases execSetVec_cases c o s with ⟨_, h⟩ | ⟨_, h⟩ <;> exact ⟨_, h⟩
  | resetScript f l m => rcases execResetScript_cases f l m s with h | ⟨_, _, _, h⟩ <;> exact ⟨_, h⟩
  | _ => exact ⟨_, rfl⟩

/-- One step of a run of the host's machine. -/
theorem run_of_next {n : Nat} {s t : State} (h : step s = .next t) :
    Host.Core.run Sys2Proof.core (n + 1) s = Host.Core.run Sys2Proof.core n t := by
  have any : ∀ (M : Host.Core) (u v : M.State), M.step u = .next v → M.run (n + 1) u = M.run n v := by
    intro M u v hs
    simp only [Host.Core.run, hs]
  exact any Sys2Proof.core s t h

end Sys2Proof.Machine
end

