-- ==== Sys2Proof/Laws/PerInstr.lean ====
section
/-! SUPPORT. Facts about every instruction as syntax, one lemma for each constructor. -/

namespace Sys2Proof.Laws.EncodedLength

/-- The encoder writes as many bytes as the instruction's length says, 1 to 8 (30_encoding R90, R105). -/
def Statement (i : Instr) : Prop :=
  (encode i).length = i.length ∧
    (∀ cfg, i.wellFormed cfg = true → 1 ≤ i.length ∧ i.length ≤ maxLength)

theorem operand_bytes (o : Operand) : o.bytes.length = o.size := by
  cases o <;> rfl

theorem operand_size (o : Operand) : o.size ≤ 2 := by
  cases o <;> simp [Operand.size]

theorem zoom_size {z : Operand} (h : z.fitsZoom = true) : z.size ≤ 1 := by
  cases z <;> simp_all [Operand.size, Operand.fitsZoom, Operand.mode]

theorem movConst (r : RegIx) (w : Word) : Statement (.movConst r w) :=
  ⟨rfl, fun _ _ => by simp [Instr.length, maxLength]⟩

theorem mov (d : RegIx) (e : RegIx) : Statement (.mov d e) :=
  ⟨rfl, fun _ _ => by simp [Instr.length, maxLength]⟩

theorem add (d : RegIx) (e : RegIx) : Statement (.add d e) :=
  ⟨rfl, fun _ _ => by simp [Instr.length, maxLength]⟩

theorem addConst (r : RegIx) (w : Word) : Statement (.addConst r w) :=
  ⟨rfl, fun _ _ => by simp [Instr.length, maxLength]⟩

theorem call (t : Word) : Statement (.call t) :=
  ⟨rfl, fun _ _ => by simp [Instr.length, maxLength]⟩

theorem ret : Statement (.ret) :=
  ⟨rfl, fun _ _ => by simp [Instr.length, maxLength]⟩

theorem brk : Statement (.brk) :=
  ⟨rfl, fun _ _ => by simp [Instr.length, maxLength]⟩

theorem jmp (t : Word) : Statement (.jmp t) :=
  ⟨rfl, fun _ _ => by simp [Instr.length, maxLength]⟩

theorem setVec (c : Byte) (o : Word) : Statement (.setVec c o) :=
  ⟨rfl, fun _ _ => by simp [Instr.length, maxLength]⟩

theorem jnz (r : RegIx) (t : Word) : Statement (.jnz r t) :=
  ⟨rfl, fun _ _ => by simp [Instr.length, maxLength]⟩

theorem condJmp (c : Cmp) (r : RegIx) (right : Operand) (t : Word) : Statement (.condJmp c r right t) := by
  have h := operand_size right
  refine ⟨?_, fun _ _ => ?_⟩
  · simp only [encode, Instr.length, List.length_cons, List.length_append, operand_bytes, wordBytes, List.length_nil]
    omega
  · simp only [Instr.length, maxLength]
    omega

theorem setPalette (w : Word) : Statement (.setPalette w) :=
  ⟨rfl, fun _ _ => by simp [Instr.length, maxLength]⟩

theorem resetScript (f : Byte) (l : Byte) (m : Option Byte) : Statement (.resetScript f l m) := by
  cases m <;> exact ⟨rfl, fun _ _ => by simp [Instr.length, maxLength]⟩

theorem selectPage (p : Byte) : Statement (.selectPage p) :=
  ⟨rfl, fun _ _ => by simp [Instr.length, maxLength]⟩

theorem fillPage (p : Byte) (k : Byte) : Statement (.fillPage p k) :=
  ⟨rfl, fun _ _ => by simp [Instr.length, maxLength]⟩

theorem copyPage (d : Byte) (e : Byte) : Statement (.copyPage d e) :=
  ⟨rfl, fun _ _ => by simp [Instr.length, maxLength]⟩

theorem updateDisplay (p : Byte) : Statement (.updateDisplay p) :=
  ⟨rfl, fun _ _ => by simp [Instr.length, maxLength]⟩

theorem halt : Statement (.halt) :=
  ⟨rfl, fun _ _ => by simp [Instr.length, maxLength]⟩

theorem drawString (w : Word) (x : Byte) (y : Byte) (k : Byte) : Statement (.drawString w x y k) :=
  ⟨rfl, fun _ _ => by simp [Instr.length, maxLength]⟩

theorem sub (d : RegIx) (e : RegIx) : Statement (.sub d e) :=
  ⟨rfl, fun _ _ => by simp [Instr.length, maxLength]⟩

theorem and (r : RegIx) (w : Word) : Statement (.and r w) :=
  ⟨rfl, fun _ _ => by simp [Instr.length, maxLength]⟩

theorem or (r : RegIx) (w : Word) : Statement (.or r w) :=
  ⟨rfl, fun _ _ => by simp [Instr.length, maxLength]⟩

theorem shl (r : RegIx) (n : Word) : Statement (.shl r n) :=
  ⟨rfl, fun _ _ => by simp [Instr.length, maxLength]⟩

theorem shr (r : RegIx) (n : Word) : Statement (.shr r n) :=
  ⟨rfl, fun _ _ => by simp [Instr.length, maxLength]⟩

theorem playSound (w : Word) (f : Byte) (v : Byte) (c : Byte) : Statement (.playSound w f v c) :=
  ⟨rfl, fun _ _ => by simp [Instr.length, maxLength]⟩

theorem updateMemList (n : Word) : Statement (.updateMemList n) :=
  ⟨rfl, fun _ _ => by simp [Instr.length, maxLength]⟩

theorem playMusic (w : Word) (d : Word) (p : Byte) : Statement (.playMusic w d p) :=
  ⟨rfl, fun _ _ => by simp [Instr.length, maxLength]⟩

theorem drawPolygonS (w : Word) (x : Operand) (y : Operand) (z : Operand) : Statement (.drawPolygonS w x y z) := by
  have hx := operand_size x
  have hy := operand_size y
  refine ⟨?_, fun _ h => ?_⟩
  · simp only [encode, Instr.length, List.length_cons, List.length_append, operand_bytes, wordBytes, List.length_nil]
    omega
  · simp only [Instr.wellFormed, Bool.and_eq_true] at h
    have hz := zoom_size h.2
    simp only [Instr.length, maxLength]
    omega

theorem drawPolygonL (w : BitVec 15) (x : Byte) (y : Byte) : Statement (.drawPolygonL w x y) :=
  ⟨rfl, fun _ _ => by simp [Instr.length, maxLength]⟩

theorem illegal (op : Byte) : Statement (.illegal op) :=
  ⟨rfl, fun _ _ => by simp [Instr.length, maxLength]⟩

end Sys2Proof.Laws.EncodedLength
end

