-- ==== Sys2Proof/Tests/Slice0.lean ====
section
/-! SUPPORT. Tests: the decoding of every constructor from bytes written out from the spec's encoding, ill-formed terms
that the checks refuse, and one-step vectors of 95_test_vectors. -/

namespace Sys2Proof.Tests

open Sys2Proof.Machine

/-- A turn of channel 0 at offset 0 over some bytes (the start state of 95_test_vectors). -/
def turn (bytes : List Byte) : State := { State.reset with code := CodeStore.ofBytes bytes, phase := .exec }

/-- What a next state shows. -/
def shown (α : Type) (r : Result) (f : State → α) : Option α :=
  match r with
  | .next t => some (f t)
  | .fault _ => none
  | .refused _ => none

/-! ### Decoding: bytes from 30_encoding R92, R100 to R104, R112 -/

theorem test_decode_movConst : decode Config.default ([0x00, 0x05, 0xFF, 0xFE] ++ [0xAA]) = .ok (.movConst 5 0xFFFE, [0xAA]) := by decide

theorem test_decode_mov : decode Config.default ([0x01, 0x02, 0x07] ++ [0xAA]) = .ok (.mov 2 7, [0xAA]) := by decide

theorem test_decode_add : decode Config.default ([0x02, 0x01, 0x02] ++ [0xAA]) = .ok (.add 1 2, [0xAA]) := by decide

theorem test_decode_addConst : decode Config.default ([0x03, 0x00, 0xFF, 0xFF] ++ [0xAA]) = .ok (.addConst 0 0xFFFF, [0xAA]) := by decide

theorem test_decode_call : decode Config.default ([0x04, 0x00, 0x20] ++ [0xAA]) = .ok (.call 0x0020, [0xAA]) := by decide

theorem test_decode_ret : decode Config.default ([0x05] ++ [0xAA]) = .ok (.ret, [0xAA]) := by decide

theorem test_decode_brk : decode Config.default ([0x06] ++ [0xAA]) = .ok (.brk, [0xAA]) := by decide

theorem test_decode_jmp : decode Config.default ([0x07, 0x00, 0x10] ++ [0xAA]) = .ok (.jmp 0x0010, [0xAA]) := by decide

theorem test_decode_setVec : decode Config.default ([0x08, 0x01, 0x00, 0x05] ++ [0xAA]) = .ok (.setVec 1 0x0005, [0xAA]) := by decide

theorem test_decode_jnz : decode Config.default ([0x09, 0x00, 0x00, 0x04] ++ [0xAA]) = .ok (.jnz 0 0x0004, [0xAA]) := by decide

theorem test_decode_condJmp_imm8 : decode Config.default ([0x0A, 0x00, 0x03, 0x05, 0x00, 0x20] ++ [0xAA]) = .ok (.condJmp .eq 3 (.imm8 5) 0x0020, [0xAA]) := by decide

theorem test_decode_condJmp_reg : decode Config.default ([0x0A, 0x84, 0x01, 0x02, 0x00, 0x10] ++ [0xAA]) = .ok (.condJmp .lt 1 (.reg 2) 0x0010, [0xAA]) := by decide

theorem test_decode_condJmp_imm16 : decode Config.default ([0x0A, 0x42, 0x07, 0xFF, 0x38, 0x01, 0x00] ++ [0xAA]) = .ok (.condJmp .gt 7 (.imm16 0xFF38) 0x0100, [0xAA]) := by decide

theorem test_decode_setPalette : decode Config.default ([0x0B, 0x03, 0x00] ++ [0xAA]) = .ok (.setPalette 0x0300, [0xAA]) := by decide

theorem test_decode_resetScript : decode Config.default ([0x0C, 0x01, 0x01, 0x01] ++ [0xAA]) = .ok (.resetScript 1 1 (some 1), [0xAA]) := by decide

theorem test_decode_selectPage : decode Config.default ([0x0D, 0x01] ++ [0xAA]) = .ok (.selectPage 1, [0xAA]) := by decide

theorem test_decode_fillPage : decode Config.default ([0x0E, 0x00, 0x07] ++ [0xAA]) = .ok (.fillPage 0 7, [0xAA]) := by decide

theorem test_decode_copyPage : decode Config.default ([0x0F, 0x02, 0x01] ++ [0xAA]) = .ok (.copyPage 2 1, [0xAA]) := by decide

theorem test_decode_updateDisplay : decode Config.default ([0x10, 0xFF] ++ [0xAA]) = .ok (.updateDisplay 0xFF, [0xAA]) := by decide

theorem test_decode_halt : decode Config.default ([0x11] ++ [0xAA]) = .ok (.halt, [0xAA]) := by decide

theorem test_decode_drawString : decode Config.default ([0x12, 0x01, 0x90, 0x14, 0x64, 0x0F] ++ [0xAA]) = .ok (.drawString 0x0190 20 100 15, [0xAA]) := by decide

theorem test_decode_sub : decode Config.default ([0x13, 0x04, 0x05] ++ [0xAA]) = .ok (.sub 4 5, [0xAA]) := by decide

theorem test_decode_and : decode Config.default ([0x14, 0x03, 0x00, 0xFF] ++ [0xAA]) = .ok (.and 3 0x00FF, [0xAA]) := by decide

theorem test_decode_or : decode Config.default ([0x15, 0x03, 0x80, 0x01] ++ [0xAA]) = .ok (.or 3 0x8001, [0xAA]) := by decide

theorem test_decode_shl : decode Config.default ([0x16, 0x02, 0x00, 0x01] ++ [0xAA]) = .ok (.shl 2 1, [0xAA]) := by decide

theorem test_decode_shr : decode Config.default ([0x17, 0x02, 0x00, 0x01] ++ [0xAA]) = .ok (.shr 2 1, [0xAA]) := by decide

theorem test_decode_playSound : decode Config.default ([0x18, 0x00, 0x2C, 0x0A, 0x3F, 0x02] ++ [0xAA]) = .ok (.playSound 0x002C 10 63 2, [0xAA]) := by decide

theorem test_decode_updateMemList : decode Config.default ([0x19, 0x3E, 0x81] ++ [0xAA]) = .ok (.updateMemList 0x3E81, [0xAA]) := by decide

theorem test_decode_playMusic : decode Config.default ([0x1A, 0x00, 0x07, 0x1F, 0x40, 0x00] ++ [0xAA]) = .ok (.playMusic 0x0007 0x1F40 0, [0xAA]) := by decide

theorem test_decode_drawPolygonL : decode Config.default ([0x80, 0x10, 0x64, 0xC8] ++ [0xAA]) = .ok (.drawPolygonL 0x0010 100 200, [0xAA]) := by decide

theorem test_decode_drawPolygonS : decode Config.default ([0x6A, 0x01, 0x00, 0xA0, 0x64, 0x80] ++ [0xAA]) = .ok (.drawPolygonS 0x0100 (.imm8 160) (.imm8 100) (.imm8 128), [0xAA]) := by decide

theorem test_decode_drawPolygonS_plus : decode Config.default ([0x7F, 0x00, 0x01, 0x10, 0x20] ++ [0xAA]) = .ok (.drawPolygonS 0x0001 (.imm8p 16) (.imm8 32) .none2, [0xAA]) := by decide

theorem test_decode_illegal : decode Config.default ([0x3F] ++ [0xAA]) = .ok (.illegal 0x3F, [0xAA]) := by decide

/-- The parameter's other value leaves the mode byte (44_channel_ops R221). -/
theorem test_decode_resetScript_short :
    decode { Config.default with resetScriptShortOnInverted := true } [0x0C, 0x05, 0x02, 0x02] =
      .ok (.resetScript 5 2 none, [0x02]) := by decide

theorem test_decode_truncated : decode Config.default [0x00, 0x05, 0xFF] = .error .truncated := by decide

theorem test_table_word : decodeTableWord 32 0xFEFF0500 = some (.movConst 5 0xFFFE) := by decide

/-! ### Ill-formed terms, one for each check -/

theorem test_refuses_cond_operand : Instr.wellFormed Config.default (.condJmp .eq 0 .none 0) = false := by decide

theorem test_refuses_x_operand :
    Instr.wellFormed Config.default (.drawPolygonS 0 .none (.imm8 0) .none) = false := by decide

theorem test_refuses_y_operand :
    Instr.wellFormed Config.default (.drawPolygonS 0 (.imm8 0) (.imm8p 0) .none) = false := by decide

theorem test_refuses_zoom_operand :
    Instr.wellFormed Config.default (.drawPolygonS 0 (.imm8 0) (.imm8 0) (.imm16 0)) = false := by decide

theorem test_refuses_missing_mode : Instr.wellFormed Config.default (.resetScript 5 2 none) = false := by decide

theorem test_refuses_extra_mode :
    Instr.wellFormed { Config.default with resetScriptShortOnInverted := true } (.resetScript 5 2 (some 0)) = false := by
  decide

theorem test_refuses_legal_opcode : Instr.wellFormed Config.default (.illegal 0x1A) = false := by decide

theorem test_refuses_draw_opcode : Instr.wellFormed Config.default (.illegal 0x40) = false := by decide

/-! ### One step: the vectors of 95_test_vectors, named in each comment -/

/-- VA1. -/
theorem test_movConst :
    shown (Int × Word) (step ((turn [0x00, 0x05, 0x80, 0x00]).setReg 5 (7))) (fun t => (t.int 5, t.pc)) =
      some (-32768, 4) := by decide

/-- VA4. -/
theorem test_mov :
    shown (Int × Word) (step ((turn [0x01, 0x02, 0x07]).setReg 7 (123))) (fun t => (t.int 2, t.pc)) =
      some (123, 3) := by decide

/-- VA5. -/
theorem test_add_wraps :
    shown (Int × Word) (step (((turn [0x02, 0x01, 0x02]).setReg 1 (32767)).setReg 2 (1))) (fun t => (t.int 1, t.pc)) =
      some (-32768, 3) := by decide

/-- VA7. -/
theorem test_add_same :
    shown (Int × Word) (step ((turn [0x02, 0x01, 0x01]).setReg 1 (-32768))) (fun t => (t.int 1, t.pc)) =
      some (0, 3) := by decide

/-- VA8. -/
theorem test_addConst :
    shown (Int × Word) (step (turn [0x03, 0x00, 0xFF, 0xFF])) (fun t => (t.int 0, t.pc)) =
      some (-1, 4) := by decide

/-- VA13. -/
theorem test_sub :
    shown (Int × Word) (step ((turn [0x13, 0x04, 0x05]).setReg 5 (-32768))) (fun t => (t.int 4, t.pc)) =
      some (-32768, 3) := by decide

/-- VA11. -/
theorem test_sub_order :
    shown (Int × Word) (step (((turn [0x13, 0x04, 0x05]).setReg 4 (10)).setReg 5 (25))) (fun t => (t.int 4, t.pc)) =
      some (-15, 3) := by decide

/-- VA15. -/
theorem test_and :
    shown (Int × Word) (step ((turn [0x14, 0x03, 0x00, 0xFF]).setReg 3 (-1))) (fun t => (t.int 3, t.pc)) =
      some (255, 4) := by decide

/-- VA18. -/
theorem test_or :
    shown (Int × Word) (step ((turn [0x15, 0x03, 0x80, 0x01]).setReg 3 (2))) (fun t => (t.int 3, t.pc)) =
      some (-32765, 4) := by decide

/-- VA21. -/
theorem test_shl :
    shown (Int × Word) (step ((turn [0x16, 0x02, 0x00, 0x01]).setReg 2 (0x4001))) (fun t => (t.int 2, t.pc)) =
      some (-32766, 4) := by decide

/-- VA26. -/
theorem test_shl_all :
    shown (Int × Word) (step ((turn [0x16, 0x02, 0xFF, 0xFF]).setReg 2 (-1))) (fun t => (t.int 2, t.pc)) =
      some (0, 4) := by decide

/-- VA29. -/
theorem test_shr :
    shown (Int × Word) (step ((turn [0x17, 0x02, 0x00, 0x04]).setReg 2 (-256))) (fun t => (t.int 2, t.pc)) =
      some (4080, 4) := by decide

/-- VA31. -/
theorem test_shr_all :
    shown (Int × Word) (step ((turn [0x17, 0x02, 0x00, 0x10]).setReg 2 (-1))) (fun t => (t.int 2, t.pc)) =
      some (0, 4) := by decide

/-- VB3. -/
theorem test_jmp :
    shown (Word × Bool) (step (turn [0x07, 0xFF, 0xFF])) (fun t => (t.pc, t.halted)) =
      some (0xFFFF, false) := by decide

/-- VB5. -/
theorem test_call_deepest :
    shown (Word × Byte × Word) (step { turn [0x04, 0x00, 0x20] with sp := 254 }) (fun t => (t.slot 254, t.sp, t.pc)) =
      some (0x0003, 255, 0x0020) := by decide

/-- VB6, at offset 0. -/
theorem test_call_overflow :
    shown (Option FaultRecord × Byte × Word) (step { turn [0x04, 0x00, 0x20] with sp := 255 })
      (fun t => (t.fault, t.sp, t.pc)) = some (some ⟨.stackOverflow 0x0020, 0, 0⟩, 255, 0) := by decide

/-- VB10. -/
theorem test_ret :
    shown (Byte × Word) (step { turn [0x05] with sp := 2, stk := (Bank.replicate 256 0x0013).set 1 0x0099 })
      (fun t => (t.sp, t.pc)) = some (1, 0x0099) := by decide

/-- VB9. -/
theorem test_ret_underflow :
    shown (Option FaultRecord × Phase) (step (turn [0x05])) (fun t => (t.fault, t.phase)) =
      some (some ⟨.stackUnderflow, 0, 0⟩, .faulted) := by decide

/-- VB13, at offset 0. -/
theorem test_jnz_jumps :
    shown (Int × Word) (step (turn [0x09, 0x00, 0x00, 0x04])) (fun t => (t.int 0, t.pc)) =
      some (-1, 4) := by decide

/-- VB12, at offset 0. -/
theorem test_jnz_falls :
    shown (Int × Word) (step ((turn [0x09, 0x00, 0x00, 0x10]).setReg 0 (1))) (fun t => (t.int 0, t.pc)) =
      some (0, 4) := by decide

/-- VB16. -/
theorem test_condJmp_zero_extends :
    shown (Word) (step ((turn [0x0A, 0x00, 0x03, 0xFF, 0x00, 0x20]).setReg 3 (-1))) (fun t => t.pc) =
      some (6) := by decide

/-- T9, REG, code 4. -/
theorem test_condJmp_signed :
    shown (Word) (step ((turn [0x0A, 0x84, 0x01, 0x02, 0x00, 0x10]).setReg 1 (-1))) (fun t => t.pc) =
      some (0x0010) := by decide

/-- VC1. -/
theorem test_setVec :
    shown (Channel × Word) (step (turn [0x08, 0x01, 0x00, 0x05])) (fun t => (t.channel 1, t.pc)) =
      some (⟨0xFFFF, 0x0005, false, false⟩, 4) := by decide

/-- VC3. -/
theorem test_setVec_no_channel :
    shown (Option FaultRecord × Word) (step (turn [0x08, 0x40, 0x00, 0x10])) (fun t => (t.fault, t.pc)) =
      some (some ⟨.channelIndex 0x40, 0, 0⟩, 0) := by decide

/-- VC12. -/
theorem test_resetScript_kill :
    shown (Word × Word × Word) (step (turn [0x0C, 0x3E, 0x7F, 0x02]))
      (fun t => ((t.channel 61).pendOff, (t.channel 62).pendOff, (t.channel 63).pendOff)) =
      some (0xFFFF, 0xFFFE, 0xFFFE) := by decide

/-- VC15. -/
theorem test_resetScript_inverted :
    shown (Word × Word × Word) (step (turn [0x0C, 0x02, 0x41, 0x02]))
      (fun t => ((t.channel 1).pendOff, (t.channel 2).pendOff, t.pc)) = some (0xFFFF, 0xFFFF, 4) := by decide

/-- VC18, at offset 0. -/
theorem test_brk : shown (Word × Bool) (step (turn [0x06])) (fun t => (t.pc, t.halted)) = some (1, true) := by decide

/-- VC19, at offset 0. -/
theorem test_halt :
    shown (Word × Bool) (step (turn [0x11])) (fun t => (t.pc, t.halted)) = some (0xFFFF, true) := by decide

/-- VV2. -/
theorem test_setPalette :
    shown (List Command × Word) (step (turn [0x0B, 0x1F, 0xFF])) (fun t => (t.commands, t.pc)) =
      some ([.setPalette 31], 3) := by decide

/-- VV3. -/
theorem test_selectPage :
    shown (List Command × Word) (step (turn [0x0D, 0x01])) (fun t => (t.commands, t.pc)) =
      some ([.selectPage 1], 2) := by decide

/-- VV4. -/
theorem test_fillPage :
    shown (List Command × Word) (step (turn [0x0E, 0x00, 0x07])) (fun t => (t.commands, t.pc)) =
      some ([.fillPage 0 7], 3) := by decide

/-- VV5. -/
theorem test_copyPage :
    shown (List Command × Word) (step ((turn [0x0F, 0x02, 0x01]).setReg 0xF9 (-8))) (fun t => (t.commands, t.pc)) =
      some ([.copyPage 2 1 (-8)], 3) := by decide

/-- VV7. -/
theorem test_updateDisplay :
    shown (List Command × Word) (step ((turn [0x10, 0xFF]).setReg 0xFF (5))) (fun t => (t.commands, t.pc)) =
      some ([.flip 0xFF 5], 2) := by decide

/-- VV6. -/
theorem test_drawString :
    shown (List Command × Word) (step (turn [0x12, 0x01, 0x90, 0x14, 0x64, 0x0F])) (fun t => (t.commands, t.pc)) =
      some ([.drawString 15 20 100 0x0190], 6) := by decide

/-- VV9. -/
theorem test_playSound :
    shown (List Command × Word) (step (turn [0x18, 0x00, 0x2C, 0x0A, 0x3F, 0x02])) (fun t => (t.commands, t.pc)) =
      some ([.playSound 0x002C 10 63 2], 6) := by decide

/-- VV8. -/
theorem test_updateMemList :
    shown (List Command × Word) (step (turn [0x19, 0x3E, 0x81])) (fun t => (t.commands, t.pc)) =
      some ([.bankLoad 0x3E81], 3) := by decide

/-- VV10. -/
theorem test_playMusic :
    shown (List Command × Word) (step (turn [0x1A, 0x00, 0x07, 0x1F, 0x40, 0x00])) (fun t => (t.commands, t.pc)) =
      some ([.playMusic 0x0007 0x1F40 0], 6) := by decide

/-- VP3. -/
theorem test_drawPolygonL_clamps :
    shown (List Command × Word) (step (turn [0xFF, 0xFF, 0xFF, 0xFF])) (fun t => (t.commands, t.pc)) =
      some ([.drawPolygon 0xFFFE 311 199 0x40 false], 4) := by decide

/-- VP4. -/
theorem test_drawPolygonL :
    shown (List Command × Word) (step (turn [0xC1, 0x23, 0x00, 0x00])) (fun t => (t.commands, t.pc)) =
      some ([.drawPolygon 0x8246 0 0 0x40 false], 4) := by decide

/-- VP10. -/
theorem test_drawPolygonS_zoom :
    shown (List Command × Word) (step ((turn [0x69, 0x00, 0x01, 0x05, 0x06, 0x09]).setReg 9 (-1))) (fun t => (t.commands, t.pc)) =
      some ([.drawPolygon 2 5 6 65535 false], 6) := by decide

/-- VP8. -/
theorem test_drawPolygonS_bank :
    shown (List Command × Word) (step (turn [0x7F, 0x00, 0x01, 0x10, 0x20])) (fun t => (t.commands, t.pc)) =
      some ([.drawPolygon 2 272 32 0x40 true], 5) := by decide

/-- VE2. -/
theorem test_illegal :
    shown (Option FaultRecord × RunStatus) (step (turn [0x3F, 0x00])) (fun t => (t.fault, t.status)) =
      some (some ⟨.invalidOpcode 0x3F, 0, 0⟩, .fault) := by decide

/-- VB15: the register is not decremented. -/
theorem test_bounds_in_operand :
    shown (Option FaultRecord × Int) (step ((turn [0x09, 0x00, 0x00]).setReg 0 5)) (fun t => (t.fault, t.int 0)) =
      some (some ⟨.bounds 3, 0, 0⟩, 5) := by decide

/-- VB8: `Bounds`, not `StackOverflow`. -/
theorem test_bounds_before_overflow :
    shown (Option FaultRecord) (step { turn [0x04, 0x00] with sp := 255 }) (fun t => t.fault) =
      some (some ⟨.bounds 2, 0, 0⟩) := by decide

/-- VS1 to VS4. -/
theorem test_setup_rows :
    [Channel.commit ⟨0x0100, 0xFFFE, false, true⟩, Channel.commit ⟨0xFFFF, 0x0200, true, false⟩,
      Channel.commit ⟨0x0300, 0xFFFF, false, true⟩, Channel.commit ⟨0x0300, 0x0000, false, false⟩] =
      [⟨0xFFFF, 0xFFFF, true, true⟩, ⟨0x0200, 0xFFFF, false, false⟩, ⟨0x0300, 0xFFFF, true, true⟩,
        ⟨0x0000, 0xFFFF, false, false⟩] := by decide

/-- VS8. -/
theorem test_restartAt :
    shown (Channel × Channel × Int)
      (step ({ State.reset with host := [⟨some (.restartAt 0x0123), false, false⟩] }.setReg 7 9))
      (fun t => (t.channel 0, t.channel 1, t.int 7)) =
      some (⟨0x0123, 0xFFFF, false, false⟩, ⟨0xFFFF, 0xFFFF, false, false⟩, 9) := by decide

/-- VV7, the completion. -/
theorem test_flip_done :
    shown Phase (step { turn [0x10] with phase := .waitFlip, host := [⟨none, false, true⟩] }) (fun t => t.phase) =
      some .exec := by decide

/-- VS10: `quit` ends the `RUN` at its first `SELECT` step. -/
theorem test_quit_in_select :
    shown (RunStatus × Phase) (step { State.reset with phase := .select, host := [⟨none, true, false⟩] })
      (fun t => (t.status, t.phase)) = some (.aborted, .idle) := by decide

/-- VS11, its last step: the cursor is persisted. -/
theorem test_quit_in_turn :
    shown (Word × RunStatus) (step { turn [0x11] with pc := 4, host := [⟨none, true, false⟩] })
      (fun t => ((t.channel 0).curOff, t.status)) = some (4, .aborted) := by decide

/-- The first step after reset runs a placed instruction (assumption 11). -/
theorem test_withFetchWord :
    shown (Int × Word) (step (State.reset.withFetchWord 32 0xFEFF0500)) (fun t => (t.int 5, t.pc)) =
      some (-2, 4) := by decide

/-! ### Witnesses: for each obligation with hypotheses, a state and operands that meet them, at the ends of each clause's
range. `Spells` carries its hypotheses: a ready state whose Code Store ends inside the instruction. -/

/-- The phase with the host offering one command. -/
def offered (p : Phase) (c : HostCommand) : State := { State.reset with phase := p, host := [⟨some c, false, false⟩] }

/-- The phase with the host driving levels and no command. -/
def driven (p : Phase) (q f : Bool) : State := { State.reset with phase := p, host := [⟨none, q, f⟩] }

/-- A turn of channel 0 with a call-stack pointer. -/
def turnAt (bytes : List Byte) (sp : Byte) : State := { turn bytes with sp := sp }

/-- The parameters with the short form of `resetScript`. -/
def shortForm : Config := { Config.default with resetScriptShortOnInverted := true }

theorem turn_ready (bytes : List Byte) : (turn bytes).ready := ⟨rfl, rfl, rfl, rfl⟩

theorem test_witness_Spells : (turn []).ready ∧ (turn []).codeWindow = [0x02, 1, 2].take 0 ∧ (turn [0x02, 1]).ready ∧
    (turn [0x02, 1]).codeWindow = [0x02, 1, 2].take 2 ∧ (Instr.add 1 2).wellFormed (turn []).config = true :=
  ⟨turn_ready _, by decide, turn_ready _, by decide, rfl⟩

theorem test_witness_DecodeOfEncodeGivesTheInstruction :
    ((Instr.drawPolygonS 0xFFFF (.imm8p 1) (.imm16 0x8000) .none2).wellFormed Config.default &&
      (Instr.condJmp .reserved7 0xFF (.reg 0) 0).wellFormed Config.default &&
      (Instr.resetScript 2 0xC1 none).wellFormed shortForm && (Instr.illegal 0x3F).wellFormed shortForm) = true := by decide

theorem test_witness_DecodedInstructionIsWellFormedAndMeasured :
    decode shortForm [0x0C, 2, 0xC1, 7] = .ok (.resetScript 2 0xC1 none, [7]) := by decide

theorem test_witness_LengthFollowsTheOpcodeByte : Config.default.resetScriptShortOnInverted = false ∧
    decode Config.default [0x80, 0, 0, 0] = .ok (.drawPolygonL 0 0 0, []) ∧
    decode Config.default [0x7F, 0, 1, 2, 3] = .ok (.drawPolygonS 1 (.imm8p 2) (.imm8 3) .none2, []) ∧
    decode Config.default [0x40, 0, 1, 0, 2, 0, 3] = .ok (.drawPolygonS 1 (.imm16 2) (.imm16 3) .none, []) ∧
    decode Config.default [0x0A, 0x40, 1, 0, 2, 0, 3] = .ok (.condJmp .eq 1 (.imm16 2) 3, []) ∧
    decode Config.default [0x0A, 0x80, 1, 2, 0, 3] = .ok (.condJmp .eq 1 (.reg 2) 3, []) ∧
    decode Config.default [0x3F] = .ok (.illegal 0x3F, []) := by decide

theorem test_witness_IllegalOpcodesTakeInvalidOpcode : decode Config.default [0x1B] = .ok (.illegal 0x1B, []) ∧
    decode Config.default [0x1A, 0, 0, 0, 0, 0] = .ok (.playMusic 0 0 0, []) ∧ (turn [0x3F]).code.read 0 = some 0x3F ∧
    (turn [0x1B]).code.read 0 = some 0x1B := by decide

theorem test_witness_StepRunsTheDecodedInstruction : (turn [0x05, 9]).ready ∧
    decode (turn [0x05, 9]).config (turn [0x05, 9]).codeWindow = .ok (.ret, [9]) := ⟨turn_ready _, by decide⟩

theorem test_witness_FetchBeyondTheCodeTakesBounds : (turn []).ready ∧ (turn []).code.len.toNat ≤ (turn []).pc.toNat ∧
    (turn [0x1A, 0, 0, 0, 0]).ready ∧
    decode Config.default (turn [0x1A, 0, 0, 0, 0]).codeWindow = .error .truncated :=
  ⟨turn_ready _, by decide, turn_ready _, by decide⟩

/-- Each cause of a fault is reached from phase `EXEC`. -/
theorem test_witness_EveryFaultHasItsCause :
    [turn [0x1B], turn [], turnAt [0x04, 0, 0] 255, turnAt [0x05] 0, turn [0x08, 64, 0, 0]].map
      (fun s => shown Phase (step s) (fun t => t.phase)) = List.replicate 5 (some .faulted) := by decide

theorem test_witness_FaultedIsLeftOnlyByReset : (offered .faulted .reset).acceptedCommand = some .reset ∧
    (offered .faulted .setup).acceptedCommand = none := by decide

theorem test_witness_CallPushesTheReturnOffset : (turnAt [] 254).sp ≠ 255 ∧ (turnAt [] 0).sp ≠ 255 ∧ (turnAt [] 255).sp = 255 := by
  decide

theorem test_witness_RetPopsTheReturnOffset : (turnAt [] 1).sp ≠ 0 ∧ (turnAt [] 255).sp ≠ 0 ∧ (turnAt [] 0).sp = 0 := by decide

theorem test_witness_CallThenRetReturns :
    shown (Byte × Word) (exec (.call 9) (turnAt [] 254)) (fun u => (u.sp, u.slot 254)) = some (255, 3) := by decide

theorem test_witness_JnzCountsDownToZero : ((turn []).setReg 4 1).int 4 = ((0 : Nat) : Int) + 1 ∧
    ((turn []).setReg 4 0x7FFF).int 4 = ((32766 : Nat) : Int) + 1 := by decide

theorem test_witness_CondJmpComparesAndJumps :
    (Operand.imm8 0).mode = [Mode.imm8, .imm16, .reg, .reg].getD ((0x3F : Byte).toNat / 64) .none ∧
    (Operand.imm16 0).mode = [Mode.imm8, .imm16, .reg, .reg].getD ((0x40 : Byte).toNat / 64) .none ∧
    (Operand.reg 0).mode = [Mode.imm8, .imm16, .reg, .reg].getD ((0x80 : Byte).toNat / 64) .none ∧
    (Operand.reg 0).mode = [Mode.imm8, .imm16, .reg, .reg].getD ((0xFF : Byte).toNat / 64) .none ∧
    Cmp.reserved7 = [Cmp.eq, .ne, .gt, .ge, .lt, .le, .reserved6, .reserved7].getD ((0x3F : Byte).toNat % 8) .reserved7 ∧
    Cmp.eq = [Cmp.eq, .ne, .gt, .ge, .lt, .le, .reserved6, .reserved7].getD ((0x40 : Byte).toNat % 8) .reserved7 := by decide

theorem test_witness_SetVecRequestsAnOffset : (63 : Byte).toNat < 64 ∧ 64 ≤ (64 : Byte).toNat ∧ 64 ≤ (255 : Byte).toNat := by decide

theorem test_witness_ResetScriptSetsTheRange : (Instr.resetScript 0 0xFF (some 3)).wellFormed Config.default = true ∧
    (Instr.resetScript 1 0x40 none).wellFormed shortForm = true := by decide

theorem test_witness_BreakYieldsAfterItself_HaltUnschedules :
    shown (Bool × Phase × Bool) (exec .brk (turn [])) (fun t => (t.cur.val < 64, t.phase, t.acceptedCommand = none)) =
      some (true, .exec, true) ∧
    shown (Bool × Phase × Bool) (exec .halt { turn [] with cur := 63 })
      (fun t => (t.cur.val < 64, t.phase, t.acceptedCommand = none)) = some (true, .exec, true) := by decide

theorem test_witness_FlipDoneResumesTheTurn : (driven .waitFlip false true).acceptedCommand = none ∧
    (driven .waitFlip true false).acceptedCommand = none ∧ (driven .waitFlip true false).input.flipDone = false ∧
    (driven .idle true true).acceptedCommand = none := by decide

theorem test_witness_DrawPolygonLClampsY : (0x80 : Byte).toNat * 256 + (0 : Byte).toNat = 0x8000 + (0 : BitVec 15).toNat ∧
    (0xFF : Byte).toNat * 256 + (0xFF : Byte).toNat = 0x8000 + (0x7FFF : BitVec 15).toNat := by decide

theorem test_witness_DrawPolygonSResolvesItsOperands : (0x40 : Byte).toNat / 64 = 1 ∧ (0x7F : Byte).toNat / 64 = 1 ∧
    (Operand.imm16 0).mode = [Mode.imm16, .reg, .imm8, .imm8p].getD ((0x40 : Byte).toNat / 16 % 4) .none ∧
    (Operand.imm16 0).mode = [Mode.imm16, .reg, .imm8, .imm8].getD ((0x40 : Byte).toNat / 4 % 4) .none ∧
    Operand.none.mode = [Mode.none, .reg, .imm8, .none2].getD ((0x40 : Byte).toNat % 4) .none ∧
    (Operand.imm8p 0).mode = [Mode.imm16, .reg, .imm8, .imm8p].getD ((0x7F : Byte).toNat / 16 % 4) .none ∧
    (Operand.imm8 0).mode = [Mode.imm16, .reg, .imm8, .imm8].getD ((0x7F : Byte).toNat / 4 % 4) .none ∧
    Operand.none2.mode = [Mode.none, .reg, .imm8, .none2].getD ((0x7F : Byte).toNat % 4) .none := by decide

theorem test_witness_SetupCommitsThePendingHalf : (offered .idle .setup).acceptedCommand = some .setup := by decide

theorem test_witness_SetupTwiceIsSetupOnce :
    shown (Bool × Bool)
      (step { offered .idle .setup with host := [⟨some .setup, false, false⟩, ⟨some .setup, false, false⟩] })
      (fun t => (t.acceptedCommand = some .setup, (shown Phase (step t) (fun u => u.phase)).isSome)) =
      some (true, true) := by decide

theorem test_witness_RestartAtSchedulesChannelZero :
    (offered .idle (.restartAt 0xFFFF)).acceptedCommand = some (.restartAt 0xFFFF) := by decide

theorem test_witness_RunAndFrameStartAtChannelZero : (offered .idle .run).acceptedCommand = some .run ∧
    (offered .idle .frame).acceptedCommand = some .frame := by decide

/-- The four outcomes: `cur` at 64; `quit`; channel 63 runnable; channel 63 not scheduled, or paused. -/
theorem test_witness_SelectStepFindsTheNextTurn : (driven .select false false).acceptedCommand = none ∧
    ({ driven .select true false with cur := 64 } : State).cur.val = 64 ∧ (driven .select true false).input.quit = true ∧
    (((driven .select false false).setChannel 63 ⟨0xFFFE, 0, false, true⟩).channel 63).curPaused = false ∧
    (((driven .select false false).setChannel 63 ⟨0xFFFE, 0, false, true⟩).channel 63).curOff ≠ 0xFFFF ∧
    ((driven .select false false).channel 63).curOff = 0xFFFF ∧
    (((driven .select false false).setChannel 63 ⟨0, 0, true, false⟩).channel 63).curPaused = true := by decide

theorem test_witness_TurnEndStoresTheCursor :
    ({ turn [] with halted := true, cur := 63 } : State).acceptedCommand = none ∧
    ({ turn [] with halted := true, cur := 63 } : State).cur.val < 64 := by decide

theorem test_witness_QuitInsideATurnEndsTheRun : (driven .exec true false).acceptedCommand = none ∧
    (driven .exec true false).halted = false ∧ (driven .exec true false).cur.val < 64 ∧
    (driven .exec true false).input.quit = true := by decide

theorem test_witness_RunWithNothingRunnableEndsDone :
    ({ State.reset with phase := .select } : State).cur.val + 64 = 64 ∧
    ({ State.reset with phase := .select, cur := 64 } : State).cur.val + 0 = 64 ∧ State.reset.host = [] ∧
    ∀ c, (State.reset.channel c).curPaused = true ∨ (State.reset.channel c).curOff = 0xFFFF :=
  ⟨by decide, by decide, rfl, fun c => .inr (by rw [reset_channel]; rfl)⟩

theorem test_witness_PauseBitsHaveTheirWriters :
    shown Bool (step ((offered .idle .setup).setChannel 5 ⟨0, 0xFFFF, false, true⟩)) (fun t => (t.channel 5).curPaused) =
      some true ∧
    shown Bool (step (turn [0x0C, 5, 5, 1])) (fun t => (t.channel 5).pendPaused) = some true := by decide

theorem test_witness_PendingHalfIsNotReadDuringARun :
    ((turn [0x11]).setChannel 5 ⟨7, 8, true, true⟩).blankPending =
      ((turn [0x11]).setChannel 5 ⟨7, 9, true, false⟩).blankPending ∧
    ((turn [0x11]).setChannel 5 ⟨7, 8, true, true⟩).acceptedCommand = none := ⟨rfl, rfl⟩

theorem test_witness_ChannelsAreVisitedInAscendingOrder :
    shown Nat (step (driven .select false false)) (fun t => t.cur.val) = some 1 ∧
    (driven .select false false).acceptedCommand = none := by decide

theorem test_witness_OnlyTheDestinationRegisterChanges :
    shown Word (exec (.movConst 255 7) (turn [])) (fun t => t.reg 255) = some 7 ∧ (turn []).reg 255 ≠ 7 ∧
    shown Word (step (turn [0x00, 255, 0, 7])) (fun t => t.reg 255) = some 7 ∧
    shown Word (step (offered .idle (.regWrite 0 7))) (fun t => t.reg 0) = some 7 := by decide

theorem test_witness_CommandStreamOnlyGrows :
    shown (List Command) (step (turn [0x0D, 1])) (fun t => t.commands) = some [.selectPage 1] ∧
    (turn [0x0D, 1]).acceptedCommand ≠ some .reset := by decide

theorem test_witness_CodeStoreChangesOnlyByInstall :
    shown Bool (step (offered .idle (.codeInstall [0x11]))) (fun t => t.code ≠ CodeStore.empty) = some true := by decide

theorem test_witness_UnacceptedCommandsHaveNoEffect : HostCommand.setup.acceptedIn (offered .select .setup).phase = false ∧
    (HostCommand.regRead 0).acceptedIn (offered .waitFlip (.regRead 0)).phase = false := by decide

theorem test_witness_HostReadsAndWritesState :
    (offered .idle (.regWrite 255 1)).acceptedCommand = some (.regWrite 255 1) ∧
    (offered .faulted (.regRead 0)).acceptedCommand = some (.regRead 0) ∧
    (offered .faulted .stateRead).acceptedCommand = some .stateRead ∧
    (offered .idle (.stateLoad State.reset.regs State.reset.channels)).acceptedCommand =
      some (.stateLoad State.reset.regs State.reset.channels) := ⟨rfl, rfl, rfl, rfl⟩

theorem test_witness_InstalledCodeReadsBack (bytes : List Byte) :
    (offered .idle (.codeInstall bytes)).acceptedCommand = some (.codeInstall bytes) ∧
    (List.replicate 0xFFFF (0 : Byte)).length ≤ 0xFFFF ∧ 0xFFFF < (List.replicate 0x10000 (0 : Byte)).length :=
  ⟨rfl, by rw [List.length_replicate], by rw [List.length_replicate]; decide⟩

theorem test_witness_ResetLeavesTheListedValues : (offered .waitFlip .reset).input.command = some .reset := rfl

/-- A turn, and a faulted state, that have the invariant. -/
theorem test_witness_Inv : (turn [0x11]).Inv ∧
    ({ turn [0x05] with phase := .faulted, status := .fault, fault := some ⟨.stackUnderflow, 0, 0⟩ } : State).Inv := by
  refine ⟨⟨by decide, by decide, by decide, by decide, by decide, by intro f hf; cases hf⟩,
    ⟨by decide, by decide, by decide, by decide, by decide, ?_⟩⟩
  intro f hf
  cases hf
  exact ⟨rfl, by decide, rfl, rfl⟩

theorem test_witness_EveryStepKeepsTheInvariant :
    shown Bool (step (turn [0x11])) (fun t => t.halted) = some true := by decide

end Sys2Proof.Tests
end

/-! # The state: the two halves of the Channel Table (10_state R28, R29) -/

section
/-! SUPPORT. What an instruction and a step can do to a row of the Channel Table. -/

namespace Sys2Proof.Machine

/-! ### Rows after an instruction -/

/-- Only `setVec` and `resetScript` write a row, each in its own way (44_channel_ops R220, R221). -/
theorem exec_channel {i : Instr} {s t : State} (h : exec i s = .next t) (k : Fin 64) :
    t.channel k = s.channel k ∨
    (∃ c o, i = .setVec c o ∧ t.channel k = (s.channel k).request o) ∨
    (∃ f l m, i = .resetScript f l (some m) ∧ t.channel k = resetMode m (s.channel k)) := by
  cases i with
  | call x =>
    rcases execCall_cases x s with ⟨-, hx⟩ | ⟨-, hx⟩ <;> rw [exec, hx] at h <;> cases h <;> exact .inl rfl
  | ret =>
    rcases execRet_cases s with ⟨-, hx⟩ | ⟨-, hx⟩ <;> rw [exec, hx] at h <;> cases h <;> exact .inl rfl
  | jnz r x =>
    simp only [exec, execJnz] at h
    split at h <;> cases h <;> exact .inl rfl
  | condJmp c r o x =>
    simp only [exec, execCondJmp] at h
    split at h <;> cases h <;> exact .inl rfl
  | setVec c o =>
    rcases execSetVec_cases c o s with ⟨-, hx⟩ | ⟨hc, hx⟩ <;> rw [exec, hx] at h <;> cases h
    · exact .inl rfl
    · rw [setChannel_channel]
      split
      · next hk => exact .inr (.inl ⟨c, o, rfl, by rw [hk]⟩)
      · exact .inl rfl
  | resetScript f l m =>
    rcases execResetScript_cases f l m s with hx | ⟨b, rfl, -, hx⟩ <;> rw [exec, hx] at h <;> cases h
    · exact .inl rfl
    · rw [setChannels_channel]
      split
      · exact .inr (.inr ⟨f, l, b, rfl, rfl⟩)
      · exact .inl rfl
  | _ => cases h; exact .inl rfl

/-- `resetScript` sets the pause level in modes 0 and 1 and leaves it in the others (44_channel_ops R221). -/
theorem resetMode_pendPaused (m : Byte) (ch : Channel) :
    (resetMode m ch).pendPaused = if m.toNat < 2 then decide (m.toNat = 1) else ch.pendPaused := by
  by_cases hkill : m = 2
  · subst hkill; rfl
  · have hone : m = 1 ↔ m.toNat = 1 := BitVec.toNat_inj.symm
    rw [resetMode, if_neg hkill]
    split
    · exact decide_eq_decide.2 hone
    · rfl

/-! ### Rows after a step -/

/-- The commands that put a whole new Channel Table in place of the old one (40_scheduler R132, R144,
70_reset_and_hazards R290). -/
def HostCommand.replacesTable (c : HostCommand) : Prop :=
  c = .reset ∨ (∃ e, c = .restartAt e) ∨ (∃ regs table, c = .stateLoad regs table)

/-- What accepting a command does to a row. -/
theorem perform_channel {s t : State} {c : HostCommand} (h : s.perform c = .next t) (k : Fin 64) :
    c.replacesTable ∨ ((c = .setup ∨ c = .frame) ∧ t.channel k = (s.channel k).commit) ∨
    t.channel k = s.channel k := by
  cases c with
  | reset => exact .inl (.inl rfl)
  | restartAt e => exact .inl (.inr (.inl ⟨e, rfl⟩))
  | stateLoad regs table => exact .inl (.inr (.inr ⟨regs, table, rfl⟩))
  | setup => cases h; exact .inr (.inl ⟨.inl rfl, setup_channel s k⟩)
  | frame => cases h; exact .inr (.inl ⟨.inr rfl, setup_channel s k⟩)
  | codeInstall bytes => obtain ⟨-, rfl⟩ := installCode_next h; exact .inr (.inr rfl)
  | _ => cases h; exact .inr (.inr rfl)

/-- Choosing the next turn writes no row (40_scheduler R135). -/
@[simp] theorem selectStep_channel (s : State) (quit : Bool) (k : Fin 64) :
    (s.selectStep quit).channel k = s.channel k := by
  rcases selectStep_cases s quit with ⟨-, h⟩ | ⟨_, ⟨-, h⟩ | ⟨-, -, h⟩ | ⟨-, -, h⟩⟩ <;> rw [h] <;> rfl

/-- Waiting writes no row (45_collaborator_ops R235). -/
@[simp] theorem waitStep_channel (s : State) (flipDone : Bool) (k : Fin 64) :
    (s.waitStep flipDone).channel k = s.channel k := by
  cases flipDone <;> rfl

/-- Storing a turn's cursor writes no pause bit and no pending field. -/
theorem persist_channel_cases (s : State) (c k : Fin 64) :
    (s.persist c).channel k = s.channel k ∨ (s.persist c).channel k = { s.channel k with curOff := s.pc } := by
  rw [persist_channel]
  split
  · next h => exact .inr (by rw [h])
  · exact .inl rfl

/-- Everything a step can do to a row: a command replaces or commits it, a turn's end stores the cursor in it, an
instruction writes it, or it stays. -/
theorem step_channel {s t : State} (h : step s = .next t) (k : Fin 64) :
    (∃ c, s.acceptedCommand = some c ∧
      (c.replacesTable ∨ (c = .setup ∨ c = .frame) ∧ t.channel k = (s.channel k).commit)) ∨
    t.channel k = s.channel k ∨
    t.channel k = { s.channel k with curOff := s.pc } ∨
    (s.ready ∧ ∃ i, s.fetch = .ok i ∧ exec i s.tookInput = .next t) := by
  rcases step_cases h with ⟨c, hc, hperf⟩ | ⟨hnone, hcore⟩
  · rcases perform_channel hperf k with hrep | hcommit | hsame
    · exact .inl ⟨c, hc, .inl hrep⟩
    · exact .inl ⟨c, hc, .inr hcommit⟩
    · exact .inr (.inl hsame)
  · right
    rcases hcore with ⟨-, rfl⟩ | ⟨-, rfl⟩ | ⟨-, rfl⟩ | ⟨-, rfl⟩ | ⟨-, -, hend⟩ | ⟨-, -, -, habort⟩ |
      ⟨hphase, hhalted, hquit, hinstr⟩
    · exact .inl rfl
    · exact .inl rfl
    · exact .inl (selectStep_channel ..)
    · exact .inl (waitStep_channel ..)
    · obtain ⟨hcur, rfl⟩ := endTurn_next hend
      exact (persist_channel_cases s.tookInput ⟨s.cur.val, hcur⟩ k).imp_right .inl
    · obtain ⟨hcur, rfl⟩ := abortTurn_next habort
      exact (persist_channel_cases s.tookInput ⟨s.cur.val, hcur⟩ k).imp_right .inl
    · rcases hinstr with hok | ⟨a, -, rfl⟩
      · exact .inr (.inr ⟨⟨hphase, hhalted, hnone, hquit⟩, hok⟩)
      · exact .inl rfl

end Sys2Proof.Machine
end

section
/-! SUPPORT. Blanking the pending half, and what commutes with it: the reading of 10_state R29 as "a step of the blanked
state answers what the step of the state answers, blanked". -/

namespace Sys2Proof.Machine

/-! ### Banks -/

theorem Bank.map_set {α : Type} {n : Nat} (f : α → α) (b : Bank α n) (i : Fin n) (a : α) :
    (b.set i a).map f = (b.map f).set i (f a) := by
  apply Bank.ext_get
  intro k
  by_cases h : i = k
  · subst h; simp
  · simp [Bank.get_set_ne _ h]

/-! ### Rows and states -/

/-- A row with its pending half blanked. -/
def Channel.blankPending (ch : Channel) : Channel := { ch with pendOff := sentinelNone, pendPaused := false }

/-- Two rows agree in the current half. -/
theorem Channel.blankPending_eq_iff {ch ch' : Channel} :
    ch.blankPending = ch'.blankPending ↔ ch.curOff = ch'.curOff ∧ ch.curPaused = ch'.curPaused := by
  simp [Channel.blankPending]

@[simp] theorem Channel.request_blankPending (ch : Channel) (o : Word) :
    (ch.request o).blankPending = ch.blankPending := rfl

@[simp] theorem Channel.pause_blankPending (ch : Channel) (p : Bool) :
    (ch.pause p).blankPending = ch.blankPending := rfl

/-- No mode of `resetScript` touches the current half (44_channel_ops R221). -/
@[simp] theorem resetMode_blankPending (m : Byte) (ch : Channel) :
    (resetMode m ch).blankPending = ch.blankPending := by
  rcases resetMode_cases m ch with h | h | h <;> simp [h]

/-- No instruction touches the current half of a row. -/
theorem exec_channel_blankPending {i : Instr} {s t : State} (h : exec i s = .next t) (k : Fin 64) :
    (t.channel k).blankPending = (s.channel k).blankPending := by
  rcases exec_channel h k with hk | ⟨_, _, -, hk⟩ | ⟨_, _, _, -, hk⟩ <;> simp [hk]

@[simp] theorem blankPending_channel (s : State) (k : Fin 64) :
    s.blankPending.channel k = (s.channel k).blankPending :=
  Bank.get_map ..

@[simp] theorem blankPending_sp (s : State) : s.blankPending.sp = s.sp := rfl
@[simp] theorem blankPending_halted (s : State) : s.blankPending.halted = s.halted := rfl
@[simp] theorem blankPending_phase (s : State) : s.blankPending.phase = s.phase := rfl
@[simp] theorem blankPending_cur (s : State) : s.blankPending.cur = s.cur := rfl
@[simp] theorem blankPending_config (s : State) : s.blankPending.config = s.config := rfl
@[simp] theorem blankPending_int (s : State) (q : RegIx) : s.blankPending.int q = s.int q := rfl
@[simp] theorem blankPending_fetch (s : State) : s.blankPending.fetch = s.fetch := rfl
@[simp] theorem blankPending_acceptedCommand (s : State) :
    s.blankPending.acceptedCommand = s.acceptedCommand := rfl
@[simp] theorem blankPending_resolve (s : State) (o : Operand) : s.blankPending.resolve o = s.resolve o := by
  cases o <;> rfl

/-- A table that agrees in every row's current half does not show in the blanked state. -/
theorem blankPending_withTable {s : State} {table : Bank Channel 64}
    (h : ∀ k, (table.get k).blankPending = (s.channel k).blankPending) :
    { s with channels := table }.blankPending = s.blankPending :=
  congrArg (fun b => { s with channels := b })
    (Bank.ext_get fun k => by rw [Bank.get_map, Bank.get_map]; exact h k)

@[simp] theorem blankPending_blankPending (s : State) : s.blankPending.blankPending = s.blankPending :=
  blankPending_withTable fun k => by
    change (s.blankPending.channel k).blankPending = _
    rw [blankPending_channel]; rfl

/-- A request or a level in one row does not show in the blanked state. -/
theorem setChannel_blankPending {s : State} {c : Fin 64} {ch : Channel}
    (h : ch.blankPending = (s.channel c).blankPending) : (s.setChannel c ch).blankPending = s.blankPending :=
  blankPending_withTable fun k => by
    change ((s.setChannel c ch).channel k).blankPending = (s.channel k).blankPending
    rw [setChannel_channel]
    split
    · next hk => rw [hk, h]
    · rfl

/-- A bulk write of pending fields does not show in the blanked state. -/
theorem setChannels_blankPending {s : State} {lo hi : Nat} {f : Channel → Channel}
    (h : ∀ ch, (f ch).blankPending = ch.blankPending) : (s.setChannels lo hi f).blankPending = s.blankPending :=
  blankPending_withTable fun k => by
    change ((s.setChannels lo hi f).channel k).blankPending = (s.channel k).blankPending
    rw [setChannels_channel]
    split
    · exact h _
    · rfl

/-- Storing a turn's cursor writes the current half, and blanking commutes with it. -/
theorem blankPending_persist (s : State) (c : Fin 64) : s.blankPending.persist c = (s.persist c).blankPending := by
  have hset : (s.blankPending.channels.set c { s.blankPending.channel c with curOff := s.pc }) =
      (s.channels.set c { s.channel c with curOff := s.pc }).map Channel.blankPending := by
    rw [Bank.map_set, blankPending_channel]; rfl
  exact congrArg (fun b => { s with channels := b }) hset

/-- Choosing the next turn reads current fields only (40_scheduler R135). -/
theorem blankPending_selectStep (s : State) (quit : Bool) :
    s.blankPending.selectStep quit = (s.selectStep quit).blankPending := by
  have hrun (k : Fin 64) : (s.channel k).blankPending.runnable = (s.channel k).runnable := rfl
  simp only [State.selectStep, blankPending_cur, blankPending_channel, hrun]
  split_ifs <;> rfl

/-! ### Outcomes -/

/-- An outcome with the pending half of its next state blanked. -/
def blankOutcome : Result → Result
  | .next t => .next t.blankPending
  | .fault f => .fault f
  | .refused r => .refused r

theorem agreeButPending_iff {r r' : Result} : AgreeButPending r r' ↔ blankOutcome r = blankOutcome r' := by
  cases r <;> cases r' <;> simp [AgreeButPending, blankOutcome]

/-- An update that commutes with blanking answers the same outcome from the blanked state. -/
theorem blankOutcome_next_of_commutes {t t' : State} (h : t' = t.blankPending) :
    blankOutcome (.next t') = blankOutcome (.next t) := by
  rw [h, blankOutcome, blankOutcome, blankPending_blankPending]

/-- The instructions' reading of 10_state R29: blanking the pending half before an instruction or after it is the
same, once what the instruction itself writes there is blanked too. -/
theorem exec_blankPending (i : Instr) (s : State) :
    blankOutcome (exec i s.blankPending) = blankOutcome (exec i s) := by
  have commutes {t t' : State} (h : t' = t.blankPending) := blankOutcome_next_of_commutes h
  cases i with
  | call x =>
    by_cases h : s.sp = stackMaxDepth <;>
      simp only [exec, execCall, blankPending_sp, h, if_true, if_false] <;> exact commutes rfl
  | ret =>
    by_cases h : s.sp = 0 <;>
      simp only [exec, execRet, blankPending_sp, h, if_true, if_false] <;> exact commutes rfl
  | setVec c o =>
    simp only [exec, execSetVec]
    split
    · next hc =>
      refine congrArg Host.Outcome.next ?_
      rw [setChannel_blankPending (by simp), setChannel_blankPending (by simp)]
      exact blankPending_blankPending (s.after (.setVec c o))
    · exact commutes rfl
  | resetScript f l m =>
    simp only [exec, execResetScript]
    split
    · exact commutes rfl
    · cases m with
      | none => exact commutes rfl
      | some b =>
        refine congrArg Host.Outcome.next ?_
        rw [setChannels_blankPending (resetMode_blankPending b), setChannels_blankPending (resetMode_blankPending b)]
        exact blankPending_blankPending (s.after (.resetScript f l (some b)))
  | jnz r x =>
    by_cases h : wrap16 (s.int r - 1) = 0 <;>
      simp only [exec, execJnz, blankPending_int, h, ne_eq, not_true, not_false_eq_true, if_true, if_false] <;>
      exact commutes rfl
  | condJmp c r o x =>
    simp only [exec, execCondJmp, blankPending_int, blankPending_resolve, blankPending_config]
    split <;> exact commutes rfl
  | _ => exact commutes rfl

/-! ### The step -/

/-- One whole instruction reads no pending field: the fetch does not see the Channel Table. -/
theorem instrStep_blankPending (s : State) :
    blankOutcome s.blankPending.instrStep = blankOutcome s.instrStep := by
  simp only [State.instrStep, blankPending_fetch]
  cases s.fetch with
  | ok i => exact exec_blankPending i s
  | error a => exact blankOutcome_next_of_commutes rfl

theorem endTurn_blankPending (s : State) : blankOutcome s.blankPending.endTurn = blankOutcome s.endTurn := by
  simp only [State.endTurn, blankPending_cur, blankPending_persist]
  split
  · exact blankOutcome_next_of_commutes rfl
  · rfl

theorem abortTurn_blankPending (s : State) : blankOutcome s.blankPending.abortTurn = blankOutcome s.abortTurn := by
  simp only [State.abortTurn, blankPending_cur, blankPending_persist]
  split
  · exact blankOutcome_next_of_commutes rfl
  · rfl

/-- The core's own step reads no pending field, in any phase. -/
theorem coreStep_blankPending (s : State) (quit flipDone : Bool) :
    blankOutcome (s.blankPending.coreStep quit flipDone) = blankOutcome (s.coreStep quit flipDone) := by
  simp only [State.coreStep, blankPending_phase]
  cases s.phase with
  | idle => exact blankOutcome_next_of_commutes rfl
  | select => exact blankOutcome_next_of_commutes (blankPending_selectStep s quit)
  | exec =>
    cases hh : s.halted with
    | true =>
      simp only [State.execStep, blankPending_halted, hh, if_true]
      exact endTurn_blankPending s
    | false =>
      simp only [State.execStep, blankPending_halted, hh, Bool.false_eq_true, if_false]
      cases quit with
      | true => exact abortTurn_blankPending s
      | false => exact instrStep_blankPending s
  | waitFlip => cases flipDone <;> exact blankOutcome_next_of_commutes rfl
  | faulted => exact blankOutcome_next_of_commutes rfl

/-- The commands that read the pending half: `SETUP` and `FRAME` commit it, `STATE_READ` shows it to the host. -/
def HostCommand.readsPending (c : HostCommand) : Prop := c = .setup ∨ c = .frame ∨ c = .stateRead

/-- A command outside `readsPending` answers the same from the blanked state. -/
theorem perform_blankPending {c : HostCommand} (h : ¬ c.readsPending) (s : State) :
    blankOutcome (s.blankPending.perform c) = blankOutcome (s.perform c) := by
  cases c with
  | setup => exact absurd (.inl rfl) h
  | frame => exact absurd (.inr (.inl rfl)) h
  | stateRead => exact absurd (.inr (.inr rfl)) h
  | codeInstall bytes =>
    simp only [State.perform, State.installCode]
    split
    · exact blankOutcome_next_of_commutes rfl
    · rfl
  | run => exact blankOutcome_next_of_commutes rfl
  | regWrite r v => exact blankOutcome_next_of_commutes rfl
  | regRead r => exact blankOutcome_next_of_commutes rfl
  | reset => rfl
  | restartAt e => rfl
  | stateLoad regs table => rfl

/-- 10_state R29 for a whole step: blanking the pending half first changes nothing but the pending half after it. -/
theorem step_blankPending {s : State} (h : ∀ c, s.acceptedCommand = some c → ¬ c.readsPending) :
    blankOutcome (step s.blankPending) = blankOutcome (step s) := by
  cases hc : s.acceptedCommand with
  | some c =>
    rw [step_of_accepted hc, step_of_accepted ((blankPending_acceptedCommand s).trans hc)]
    exact perform_blankPending (h c hc) s.tookInput
  | none =>
    rw [step_of_none hc, step_of_none ((blankPending_acceptedCommand s).trans hc)]
    exact coreStep_blankPending s.tookInput s.input.quit s.input.flipDone

end Sys2Proof.Machine
end

section
/-! The statements of 10_state R28 and R29. -/

namespace Sys2Proof.Machine

/-- Settles O48: the current half of each row by `exec_channel_blankPending`, the two-state half by blanking both states
(`step_blankPending`). -/
theorem pendingHalfIsNotReadDuringARun : Obligations.PendingHalfIsNotReadDuringARun := by
  unfold Obligations.PendingHalfIsNotReadDuringARun
  refine ⟨fun i s t c h => Channel.blankPending_eq_iff.1 (exec_channel_blankPending h c), ?_⟩
  intro s s' hagree hsetup hframe hread
  have hquiet (c : HostCommand) (hc : s.acceptedCommand = some c) : ¬ c.readsPending := by
    rintro (rfl | rfl | rfl)
    · exact hsetup hc
    · exact hframe hc
    · exact hread hc
  have hcommand : s'.acceptedCommand = s.acceptedCommand := by
    rw [← blankPending_acceptedCommand s', ← hagree, blankPending_acceptedCommand]
  have hquiet' (c : HostCommand) (hc : s'.acceptedCommand = some c) : ¬ c.readsPending :=
    hquiet c (hcommand.symm.trans hc)
  rw [agreeButPending_iff]
  calc blankOutcome (step s) = blankOutcome (step s.blankPending) := (step_blankPending hquiet).symm
    _ = blankOutcome (step s'.blankPending) := by rw [hagree]
    _ = blankOutcome (step s') := step_blankPending hquiet'

/-- Settles O47, from what a step can do to a row (`step_channel`): the commands are the writers named, a turn's end
writes `curOff` only, and of the instructions `resetScript` alone writes a pause bit, the pending one. -/
theorem pauseBitsHaveTheirWriters : Obligations.PauseBitsHaveTheirWriters := by
  unfold Obligations.PauseBitsHaveTheirWriters
  refine ⟨?current, ?pending, fun s c => by rw [setup_channel]; rfl⟩
  case current =>
    intro s t k hstep hchanged
    rcases step_channel hstep k with ⟨c, hc, hrep | ⟨hcommit, -⟩⟩ | hsame | hcursor | ⟨-, i, -, hexec⟩
    · rcases hrep with rfl | ⟨e, rfl⟩ | ⟨regs, table, rfl⟩ <;> simp [hc]
    · rcases hcommit with rfl | rfl <;> simp [hc]
    · exact absurd (by rw [hsame]) hchanged
    · exact absurd (by rw [hcursor]) hchanged
    · obtain ⟨-, hpaused⟩ := Channel.blankPending_eq_iff.1 (exec_channel_blankPending hexec k)
      exact absurd hpaused hchanged
  case pending =>
    intro s t k hstep hchanged
    rcases step_channel hstep k with ⟨c, hc, hrep | ⟨-, hcommit⟩⟩ | hsame | hcursor | ⟨hready, i, hfetch, hexec⟩
    · rcases hrep with rfl | ⟨e, rfl⟩ | ⟨regs, table, rfl⟩ <;> simp [hc]
    · exact absurd (by rw [hcommit]; rfl) hchanged
    · exact absurd (by rw [hsame]) hchanged
    · exact absurd (by rw [hcursor]) hchanged
    · rcases exec_channel hexec k with hk | ⟨_, _, -, hk⟩ | ⟨f, l, m, rfl, hk⟩
      · exact absurd (by rw [hk]; rfl) hchanged
      · exact absurd (by rw [hk]; rfl) hchanged
      · rw [tookInput_channel] at hk
        have hlevel := resetMode_pendPaused m (s.channel k)
        rw [← hk] at hlevel
        split at hlevel
        · next hm => exact .inl ⟨hready, f, l, m, hfetch, hm, hlevel⟩
        · exact absurd hlevel hchanged

end Sys2Proof.Machine
end

/-! # The decoder: the formats' inversions and the illegal opcode bytes (30_encoding R91, R92, R104, R106) -/

section
/-! SUPPORT. For each format, which bytes it takes and what it answers; then the opcode bytes whose instruction is the
illegal one. -/

namespace Sys2Proof

variable {i : Instr} {bs rest : List Byte}

/-! ### Formats -/

theorem formN_eq_some {j : Instr} : formN j bs = some (i, rest) ↔ bs = rest ∧ i = j := by
  simp [formN, and_comm, eq_comm]

theorem formB_eq_some {k : Byte → Instr} :
    formB k bs = some (i, rest) ↔ ∃ b, bs = b :: rest ∧ i = k b := by
  unfold formB
  split <;> grind

theorem formBB_eq_some {k : Byte → Byte → Instr} :
    formBB k bs = some (i, rest) ↔ ∃ b c, bs = b :: c :: rest ∧ i = k b c := by
  unfold formBB
  split <;> grind

theorem formW_eq_some {k : Word → Instr} :
    formW k bs = some (i, rest) ↔ ∃ h l, bs = h :: l :: rest ∧ i = k (wordOf h l) := by
  unfold formW
  split <;> grind

theorem formBW_eq_some {k : Byte → Word → Instr} :
    formBW k bs = some (i, rest) ↔ ∃ b h l, bs = b :: h :: l :: rest ∧ i = k b (wordOf h l) := by
  unfold formBW
  split <;> grind

theorem formWBBB_eq_some {k : Word → Byte → Byte → Byte → Instr} :
    formWBBB k bs = some (i, rest) ↔
      ∃ h l b c d, bs = h :: l :: b :: c :: d :: rest ∧ i = k (wordOf h l) b c d := by
  unfold formWBBB
  split <;> grind

theorem formWWB_eq_some {k : Word → Word → Byte → Instr} :
    formWWB k bs = some (i, rest) ↔
      ∃ h l h' l' b, bs = h :: l :: h' :: l' :: b :: rest ∧ i = k (wordOf h l) (wordOf h' l') b := by
  unfold formWWB
  split <;> grind

/-- `resetScript` leaves its mode byte exactly where `omitsMode` says so (44_channel_ops R221). -/
theorem formReset_eq_some {cfg : Config} :
    formReset cfg bs = some (i, rest) ↔
      ∃ f l m, bs = f :: l :: (m.toList ++ rest) ∧ m.isNone = omitsMode cfg f l ∧ i = .resetScript f l m := by
  constructor
  · intro h
    unfold formReset at h
    split at h
    · next f l tail =>
      split at h
      · next homits =>
        cases h
        exact ⟨f, l, none, rfl, homits.symm, rfl⟩
      · next hmode =>
        split at h <;> cases h
        next m => exact ⟨f, l, some m, rfl, by simpa using hmode, rfl⟩
    · cases h
  · rintro ⟨f, l, m, rfl, hm, rfl⟩
    cases m <;> simp [formReset, ← hm]

theorem formCJ_eq_some :
    formCJ bs = some (i, rest) ↔
      ∃ m r tail right h l, bs = m :: r :: tail ∧ takeOperand (condMode m) tail = some (right, h :: l :: rest) ∧
        i = .condJmp (condCmp m) r right (wordOf h l) := by
  unfold formCJ
  split <;> grind

theorem formPL_eq_some {op : Byte} :
    formPL op bs = some (i, rest) ↔
      ∃ b x y, bs = b :: x :: y :: rest ∧ i = .drawPolygonL (op.extractLsb' 0 7 ++ b) x y := by
  unfold formPL
  split <;> grind

theorem formPS_eq_some {op : Byte} :
    formPS op bs = some (i, rest) ↔
      ∃ h l afterW x afterX y afterY z, bs = h :: l :: afterW ∧ takeOperand (xMode op) afterW = some (x, afterX) ∧
        takeOperand (yMode op) afterX = some (y, afterY) ∧ takeOperand (zoomMode op) afterY = some (z, rest) ∧
        i = .drawPolygonS (wordOf h l) x y z := by
  unfold formPS
  split <;> grind

/-! ### The illegal opcode bytes -/

/-- `op[7:6] = 00` on numbers. -/
theorem topBits_clear_iff (op : Byte) : op.getLsbD 7 = false ∧ op.getLsbD 6 = false ↔ op.toNat ≤ 0x3F := by
  have hop := op.isLt
  simp only [BitVec.getLsbD, Nat.testBit_eq_decide_div_mod_eq, decide_eq_false_iff_not]
  omega

/-- The dispatch table answers the illegal instruction from 0x1B on, taking no operand (30_encoding R106). -/
theorem decodeTable_eq_illegal_iff {cfg : Config} {op op' : Byte} :
    decodeTable cfg op bs = some (.illegal op', rest) ↔ 0x1B ≤ op.toNat ∧ op' = op ∧ rest = bs := by
  unfold decodeTable
  split
  case h_28 =>
    have hop : 0x1B ≤ op.toNat := by
      simp only [imp_false] at *
      bv_omega
    simp [formN, hop, eq_comm]
  all_goals
    simp [formN_eq_some, formB_eq_some, formBB_eq_some, formW_eq_some, formBW_eq_some, formWBBB_eq_some,
      formWWB_eq_some, formReset_eq_some, formCJ_eq_some]

/-- The polygon formats never answer the illegal instruction, so only the dispatch table's bytes do (30_encoding R91). -/
theorem decode_eq_illegal_iff {cfg : Config} {op op' : Byte} :
    decode cfg (op :: bs) = .ok (.illegal op', rest) ↔
      (0x1B ≤ op.toNat ∧ op.toNat ≤ 0x3F) ∧ op' = op ∧ rest = bs := by
  have hafter : decode cfg (op :: bs) = .ok (.illegal op', rest) ↔
      decodeAfter cfg op bs = some (.illegal op', rest) := by
    rw [decode]
    cases decodeAfter cfg op bs <;> simp
  rw [hafter, ← topBits_clear_iff, decodeAfter]
  split
  · next h7 => simp [formPL_eq_some, h7]
  · next h7 =>
    split
    · next h6 => simp [formPS_eq_some, h6]
    · next h6 =>
      rw [decodeTable_eq_illegal_iff]
      simp only [h7, h6, and_self, and_true]

end Sys2Proof
end

section
/-! SUPPORT. The opcode byte at the front of the window, and the step of a fetched instruction. -/

namespace Sys2Proof.Machine

/-- The byte at the cursor is the first of the window (30_encoding R94). -/
theorem codeWindow_of_read {s : State} {op : Byte} (h : s.code.read s.pc.toNat = some op) :
    ∃ bs, s.codeWindow = op :: bs :=
  ⟨s.code.window (s.pc.toNat + 1) 7, by simp only [State.codeWindow, maxLength, CodeStore.window, h]⟩

/-- A ready step runs the instruction it fetched (40_scheduler R137). -/
theorem step_of_fetch {s : State} {i : Instr} (hready : s.ready) (h : s.fetch = .ok i) :
    step s = exec i s.tookInput := by
  obtain ⟨hphase, hhalted, hcommand, hquit⟩ := hready
  rw [step_of_instr hphase hhalted hcommand hquit]
  simp only [State.instrStep, tookInput_fetch, h]

/-- 60_exceptions R251: the fault `InvalidOpcode`, with the byte. -/
theorem exec_illegal (op : Byte) (s : State) : exec (.illegal op) s = .next (s.raise (.invalidOpcode op)) := rfl

end Sys2Proof.Machine
end

section
/-! The statement of 30_encoding R106 and 60_exceptions R251. -/

namespace Sys2Proof.Machine

/-- Settles O4: both directions of decoding by `decode_eq_illegal_iff`; the step fetches the illegal instruction because
the byte at the cursor is the first of the window. -/
theorem illegalOpcodesTakeInvalidOpcode : Obligations.IllegalOpcodesTakeInvalidOpcode := by
  unfold Obligations.IllegalOpcodesTakeInvalidOpcode
  refine ⟨?decodes, ?only, exec_illegal, ?steps⟩
  case decodes => exact fun cfg op bs hlo hhi => decode_eq_illegal_iff.2 ⟨⟨hlo, hhi⟩, rfl, rfl⟩
  case only => exact fun cfg op op' bs rest h => (decode_eq_illegal_iff.1 h).1
  case steps =>
    intro op s hready hlo hhi hread
    obtain ⟨bs, hwindow⟩ := codeWindow_of_read hread
    have hfetch : s.fetch = .ok (.illegal op) := fetch_of_decode (rest := bs) <| by
      rw [hwindow]
      exact decode_eq_illegal_iff.2 ⟨⟨hlo, hhi⟩, rfl, rfl⟩
    rw [step_of_fetch hready hfetch, exec_illegal]

end Sys2Proof.Machine
end

/-! # The scheduler: `SETUP`, the `SELECT` step and the end of a turn (40_scheduler R133, R135, R136, R138) -/

section
/-! SUPPORT. Frames: how they compose, and which parts each scheduler operation leaves to change. -/

namespace Sys2Proof.Machine

variable {s t u : State} {ps qs : List Part}

theorem Keeps.trans {p : Part} (h : Keeps p s t) (h' : Keeps p t u) : Keeps p s u := by
  cases p with
  | regs => exact fun r => (h' r).trans (h r)
  | channels => exact fun c => (h' c).trans (h c)
  | stk => exact fun k => (h' k).trans (h k)
  | memory =>
    obtain ⟨hlen, hread⟩ := h
    obtain ⟨hlen', hread'⟩ := h'
    exact ⟨hlen'.trans hlen, fun a => (hread' a).trans (hread a)⟩
  | _ => exact Eq.trans h' h

/-- What two updates in a row may change is what either may change. -/
theorem KeepsAllBut.trans (h : KeepsAllBut ps s t) (h' : KeepsAllBut qs t u) : KeepsAllBut (qs ++ ps) s u := by
  intro p hp
  rw [List.mem_append, not_or] at hp
  obtain ⟨hq, hp⟩ := hp
  exact (h p hp).trans (h' p hq)

theorem tookInput_keeps (s : State) : KeepsAllBut [.host] s s.tookInput := by
  intro p hp
  cases p <;> simp [Keeps] at hp ⊢

theorem setup_keeps (s : State) : KeepsAllBut [.channels] s s.setup := by
  intro p hp
  cases p <;> simp [Keeps] at hp ⊢

theorem endRun_keeps (s : State) (st : RunStatus) : KeepsAllBut [.status, .phase] s (s.endRun st) := by
  intro p hp
  cases p <;> simp [Keeps] at hp ⊢

theorem startTurn_keeps (s : State) (o : Word) : KeepsAllBut [.pc, .sp, .halted, .phase] s (s.startTurn o) := by
  intro p hp
  cases p <;> simp [Keeps] at hp ⊢

/-- Passing a channel in `SELECT`. -/
theorem withCur_keeps (s : State) (c : Fin 65) : KeepsAllBut [.cur] s { s with cur := c } := by
  intro p hp
  cases p <;> simp [Keeps, State.reg, State.channel, State.slot] at hp ⊢

/-- Leaving a turn for the next channel. -/
theorem endedTurn_keeps (s : State) (k : Fin 64) (c : Fin 65) :
    KeepsAllBut [.channels, .cur, .phase] s { s.persist k with cur := c, phase := .select } := by
  intro p hp
  cases p <;> simp [Keeps, State.reg, State.slot] at hp ⊢

end Sys2Proof.Machine
end

section
/-! SUPPORT. The scheduler's operations, an equation for each case. -/

namespace Sys2Proof.Machine

variable {s : State}

/-! ### Runnable channels (40_scheduler R135) -/

theorem Channel.runnable_eq_true_iff {ch : Channel} :
    ch.runnable = true ↔ ch.curPaused = false ∧ ch.curOff ≠ 0xFFFF := by
  simp only [Channel.runnable, Bool.and_eq_true, Bool.not_eq_true', decide_eq_true_eq]
  rfl

theorem Channel.runnable_eq_false_iff {ch : Channel} :
    ch.runnable = false ↔ ch.curPaused = true ∨ ch.curOff = 0xFFFF := by
  rw [← Bool.not_eq_true, runnable_eq_true_iff, not_and_or, Bool.not_eq_false, not_not]

/-! ### The `SELECT` step (40_scheduler R135) -/

/-- Past the last channel, whatever `quit` is. -/
theorem selectStep_of_end (h : s.cur.val = 64) (quit : Bool) : s.selectStep quit = s.endRun .done :=
  dif_neg (by omega)

theorem selectStep_of_quit (hc : s.cur.val < 64) : s.selectStep true = s.endRun .aborted := by
  simp [State.selectStep, hc]

theorem selectStep_of_runnable (hc : s.cur.val < 64) (h : (s.channel ⟨s.cur.val, hc⟩).runnable = true) :
    s.selectStep false = s.startTurn (s.channel ⟨s.cur.val, hc⟩).curOff := by
  simp [State.selectStep, hc, h]

theorem selectStep_of_not_runnable (hc : s.cur.val < 64) (h : (s.channel ⟨s.cur.val, hc⟩).runnable = false) :
    s.selectStep false = { s with cur := nextChannel ⟨s.cur.val, hc⟩ } := by
  simp [State.selectStep, hc, h]

/-! ### The end of a turn (40_scheduler R138) -/

theorem endTurn_of_lt (hc : s.cur.val < 64) :
    s.endTurn =
      .next { s.persist ⟨s.cur.val, hc⟩ with cur := nextChannel ⟨s.cur.val, hc⟩, phase := .select } :=
  dif_pos hc

/-- The rows once a turn's cursor is stored, the row told by its number. -/
theorem persist_channel_of_val (s : State) (c k : Fin 64) :
    (s.persist c).channel k = if k.val = c.val then { s.channel k with curOff := s.pc } else s.channel k := by
  by_cases h : k = c
  · subst h; simp
  · simp [h, Fin.val_ne_of_ne h]

/-! ### The step, and the phase `SETUP` is taken in -/

theorem step_of_select (hphase : s.phase = .select) (hnone : s.acceptedCommand = none) :
    step s = .next (s.tookInput.selectStep s.input.quit) := by
  rw [step_of_none hnone]
  simp [State.coreStep, hphase]

/-- The halted flag goes before `quit` (60_exceptions R257). -/
theorem step_of_halted (hphase : s.phase = .exec) (hhalted : s.halted = true) (hnone : s.acceptedCommand = none) :
    step s = s.tookInput.endTurn := by
  rw [step_of_none hnone]
  simp [State.coreStep, State.execStep, hphase, hhalted]

/-- `SETUP` is taken in `IDLE` only (40_scheduler R130). -/
theorem phase_of_accepted_setup (h : s.acceptedCommand = some .setup) : s.phase = .idle := by
  simpa [HostCommand.acceptedIn] using (acceptedCommand_some h).2

end Sys2Proof.Machine
end

section
/-! The statements of 40_scheduler R133, R135, R136 and R138. -/

namespace Sys2Proof.Machine

/-- Settles O39: the step is `SETUP` on the state that took its input, and `Channel.commit` is the row asked for. -/
theorem setupCommitsThePendingHalf : Obligations.SetupCommitsThePendingHalf := by
  unfold Obligations.SetupCommitsThePendingHalf
  intro s h
  have hidle : s.phase = .idle := phase_of_accepted_setup h
  refine ⟨s.tookInput.setup, step_of_accepted h, hidle, fun c => ?row, (tookInput_keeps s).trans (setup_keeps _)⟩
  case row =>
    rw [setup_channel, tookInput_channel]
    rfl

/-- Settles O43: each outcome is one equation of the `SELECT` step. -/
theorem selectStepFindsTheNextTurn : Obligations.SelectStepFindsTheNextTurn := by
  unfold Obligations.SelectStepFindsTheNextTurn
  intro s hphase hnone
  rw [step_of_select hphase hnone]
  refine ⟨fun hend => ?done, fun hc => ⟨fun hquit => ?aborted, fun hquit hpaused hoff => ?turn,
    fun hquit hpassed => ?passed⟩⟩
  case done =>
    rw [selectStep_of_end (s := s.tookInput) hend]
    exact ⟨_, rfl, rfl, rfl, (tookInput_keeps s).trans (endRun_keeps _ _)⟩
  case aborted =>
    rw [hquit, selectStep_of_quit (s := s.tookInput) hc]
    exact ⟨_, rfl, rfl, rfl, (tookInput_keeps s).trans (endRun_keeps _ _)⟩
  case turn =>
    rw [hquit, selectStep_of_runnable (s := s.tookInput) hc (Channel.runnable_eq_true_iff.2 ⟨hpaused, hoff⟩)]
    exact ⟨_, rfl, rfl, rfl, rfl, rfl, (tookInput_keeps s).trans (startTurn_keeps _ _)⟩
  case passed =>
    rw [hquit, selectStep_of_not_runnable (s := s.tookInput) hc (Channel.runnable_eq_false_iff.2 hpassed)]
    exact ⟨_, rfl, rfl, (tookInput_keeps s).trans (withCur_keeps _ _)⟩

/-- Settles O44: the step is the turn's end, which `quit` does not reach (`step_of_halted`). -/
theorem turnEndStoresTheCursor : Obligations.TurnEndStoresTheCursor := by
  unfold Obligations.TurnEndStoresTheCursor
  intro s hc hphase hhalted hnone
  rw [step_of_halted hphase hhalted hnone, endTurn_of_lt (s := s.tookInput) hc]
  exact ⟨_, rfl, persist_channel_of_val s.tookInput ⟨s.cur.val, hc⟩, rfl, rfl,
    (tookInput_keeps s).trans (endedTurn_keeps _ _ _)⟩

end Sys2Proof.Machine
end

/-! # The decoder: more bytes behind an instruction change nothing (30_encoding R91, R93) -/

section
/-! SUPPORT. A format that answers has read the front of its bytes only. So an encoding cut short decodes to
nothing, and `Spells` needs the length and the decoding alone. -/

namespace Sys2Proof

variable {cfg : Config} {op : Byte}

/-! ### Formats -/

/-- What a format answers on some bytes it answers on every extension of them, the added bytes left over. -/
def IgnoresTail (form : List Byte → Parsed) : Prop :=
  ∀ ⦃bs i rest⦄, form bs = some (i, rest) → ∀ tail, form (bs ++ tail) = some (i, rest ++ tail)

theorem formN_ignoresTail (i : Instr) : IgnoresTail (formN i) := by
  intro bs j rest h tail
  obtain ⟨rfl, rfl⟩ := formN_eq_some.1 h
  rfl

theorem formB_ignoresTail (k : Byte → Instr) : IgnoresTail (formB k) := by
  intro bs i rest h tail
  obtain ⟨b, rfl, rfl⟩ := formB_eq_some.1 h
  rfl

theorem formBB_ignoresTail (k : Byte → Byte → Instr) : IgnoresTail (formBB k) := by
  intro bs i rest h tail
  obtain ⟨b, c, rfl, rfl⟩ := formBB_eq_some.1 h
  rfl

theorem formW_ignoresTail (k : Word → Instr) : IgnoresTail (formW k) := by
  intro bs i rest h tail
  obtain ⟨h', l, rfl, rfl⟩ := formW_eq_some.1 h
  rfl

theorem formBW_ignoresTail (k : Byte → Word → Instr) : IgnoresTail (formBW k) := by
  intro bs i rest h tail
  obtain ⟨b, h', l, rfl, rfl⟩ := formBW_eq_some.1 h
  rfl

theorem formWBBB_ignoresTail (k : Word → Byte → Byte → Byte → Instr) : IgnoresTail (formWBBB k) := by
  intro bs i rest h tail
  obtain ⟨h', l, b, c, d, rfl, rfl⟩ := formWBBB_eq_some.1 h
  rfl

theorem formWWB_ignoresTail (k : Word → Word → Byte → Instr) : IgnoresTail (formWWB k) := by
  intro bs i rest h tail
  obtain ⟨h₁, l₁, h₂, l₂, b, rfl, rfl⟩ := formWWB_eq_some.1 h
  rfl

theorem formReset_ignoresTail (cfg : Config) : IgnoresTail (formReset cfg) := by
  intro bs i rest h tail
  obtain ⟨f, l, m, rfl, hm, rfl⟩ := formReset_eq_some.1 h
  exact formReset_eq_some.2 ⟨f, l, m, by simp, hm, rfl⟩

theorem takeOperand_append {m : Mode} {bs rest : List Byte} {o : Operand} (h : takeOperand m bs = some (o, rest))
    (tail : List Byte) : takeOperand m (bs ++ tail) = some (o, rest ++ tail) := by
  unfold takeOperand at h
  split at h <;> cases h <;> rfl

theorem formCJ_ignoresTail : IgnoresTail formCJ := by
  intro bs i rest h tail
  obtain ⟨m, r, after, right, h', l, rfl, hright, rfl⟩ := formCJ_eq_some.1 h
  exact formCJ_eq_some.2 ⟨m, r, after ++ tail, right, h', l, rfl, takeOperand_append hright tail, rfl⟩

theorem formPL_ignoresTail (op : Byte) : IgnoresTail (formPL op) := by
  intro bs i rest h tail
  obtain ⟨b, x, y, rfl, rfl⟩ := formPL_eq_some.1 h
  rfl

theorem formPS_ignoresTail (op : Byte) : IgnoresTail (formPS op) := by
  intro bs i rest h tail
  obtain ⟨h', l, afterW, x, afterX, y, afterY, z, rfl, hx, hy, hz, rfl⟩ := formPS_eq_some.1 h
  exact formPS_eq_some.2 ⟨h', l, afterW ++ tail, x, afterX ++ tail, y, afterY ++ tail, z, rfl,
    takeOperand_append hx tail, takeOperand_append hy tail, takeOperand_append hz tail, rfl⟩

/-! ### The decoder -/

/-- Every entry of the dispatch table is one of the formats (30_encoding R104). -/
theorem decodeTable_ignoresTail (cfg : Config) (op : Byte) : IgnoresTail (decodeTable cfg op) := by
  unfold decodeTable
  split <;>
    simp only [formN_ignoresTail, formB_ignoresTail, formBB_ignoresTail, formW_ignoresTail, formBW_ignoresTail,
      formWBBB_ignoresTail, formWWB_ignoresTail, formReset_ignoresTail, formCJ_ignoresTail]

theorem decodeAfter_ignoresTail (cfg : Config) (op : Byte) : IgnoresTail (decodeAfter cfg op) := by
  intro bs i rest h tail
  unfold decodeAfter at h ⊢
  split_ifs at h ⊢
  · exact formPL_ignoresTail op h tail
  · exact formPS_ignoresTail op h tail
  · exact decodeTable_ignoresTail cfg op h tail

theorem decode_cons_eq_ok_iff {bs : List Byte} {r : Instr × List Byte} :
    decode cfg (op :: bs) = .ok r ↔ decodeAfter cfg op bs = some r := by
  rw [decode]
  cases decodeAfter cfg op bs <;> simp

theorem decode_append {bs rest : List Byte} {i : Instr} (h : decode cfg bs = .ok (i, rest)) (tail : List Byte) :
    decode cfg (bs ++ tail) = .ok (i, rest ++ tail) := by
  cases bs with
  | nil => cases h
  | cons op bs => exact decode_cons_eq_ok_iff.2 (decodeAfter_ignoresTail cfg op (decode_cons_eq_ok_iff.1 h) tail)

/-- The bytes of an instruction, cut short, decode to nothing: what they decoded to would leave the bytes cut off
behind it, where the whole leaves none. -/
theorem decode_take_of_decode {bytes : List Byte} {i : Instr} (h : decode cfg bytes = .ok (i, [])) {k : Nat}
    (hk : k < bytes.length) : decode cfg (bytes.take k) = .error .truncated := by
  cases hcut : decode cfg (bytes.take k) with
  | error e => cases e; rfl
  | ok r =>
    obtain ⟨j, rest⟩ := r
    have hwhole := decode_append hcut (bytes.drop k)
    rw [List.take_append_drop, h] at hwhole
    have hnone : [] = rest ++ bytes.drop k := (Prod.mk.inj (Except.ok.inj hwhole)).2
    have hdrop : bytes.drop k = [] := (List.append_eq_nil_iff.1 hnone.symm).2
    exact absurd (List.drop_eq_nil_iff.1 hdrop) (by omega)

end Sys2Proof
end

section
/-! SUPPORT. The step whose fetch runs off the Code Store, and what it takes to spell an instruction. -/

namespace Sys2Proof.Machine

/-- A ready step whose fetch runs off the Code Store takes `Bounds` (60_exceptions R252). -/
theorem step_of_fetch_error {s : State} {a : Word} (hready : s.ready) (h : s.fetch = .error a) :
    step s = .next (s.tookInput.raise (.bounds a)) := by
  obtain ⟨hphase, hhalted, hcommand, hquit⟩ := hready
  rw [step_of_instr hphase hhalted hcommand hquit]
  simp only [State.instrStep, tookInput_fetch, h]

/-- Bytes spell an instruction when they are as many as its length and decode to it wherever they stand; the faults of a
Code Store that ends inside them follow, since no bytes cut short decode. -/
theorem Spells.of_decode {i : Instr} {bytes : List Byte} (hlen : i.length = bytes.length)
    (hdecode : ∀ cfg rest, i.wellFormed cfg = true → decode cfg (bytes ++ rest) = .ok (i, rest)) :
    Spells i bytes := by
  refine ⟨hlen, hdecode, fun s k hready hwf hk hwindow => ?bounds⟩
  case bounds =>
    have hwhole : decode s.config bytes = .ok (i, []) := by simpa using hdecode s.config [] hwf
    have hcut : decode s.config s.codeWindow = .error .truncated := by
      rw [hwindow]
      exact decode_take_of_decode hwhole hk
    have hread : s.codeWindow.length = k := by rw [hwindow, List.length_take, Nat.min_eq_left hk.le]
    rw [step_of_fetch_error hready (fetch_of_truncated hcut), hread]

end Sys2Proof.Machine
end

/-! # The register instructions (42_register_ops R181 to R184) -/

section
/-! SUPPORT. The integers of word operands and of wrapped results (00_scope R10), and the one shape every register
instruction has: move the cursor, then write one register. -/

namespace Sys2Proof

/-- The byte order on numbers (30_encoding R95). -/
theorem wordOf_toNat (h l : Byte) : (wordOf h l).toNat = h.toNat * 256 + l.toNat := by
  rw [wordOf, BitVec.toNat_append, ← Nat.shiftLeft_add_eq_or_of_lt l.isLt, Nat.shiftLeft_eq]

/-- `s16of` of a word operand (00_scope R10). -/
theorem wordOf_toInt (h l : Byte) : (wordOf h l).toInt = Int.bmod (h.toNat * 256 + l.toNat) 65536 := by
  rw [BitVec.toInt_eq_toNat_bmod, wordOf_toNat]
  push_cast
  rfl

end Sys2Proof

namespace Sys2Proof.Machine

theorem wrap16_toInt (n : Int) : (wrap16 n).toInt = Int.bmod n 65536 := BitVec.toInt_ofInt n

theorem after_keeps (s : State) (i : Instr) : KeepsAllBut [.pc] s (s.after i) := by
  intro p hp
  cases p <;> simp [Keeps] at hp ⊢

theorem setReg_keeps (s : State) (r : RegIx) (v : Word) : KeepsAllBut [.regs] s (s.setReg r v) := by
  intro p hp
  cases p <;> simp [Keeps] at hp ⊢

/-- The whole effect of an instruction that moves the cursor past itself and writes one register. -/
theorem exec_effect_of_setReg {i : Instr} {s : State} {r : RegIx} {v : Word}
    (h : exec i s = .next ((s.after i).setReg r v)) :
    ∃ t, exec i s = .next t ∧ t.reg r = v ∧ (∀ q, q ≠ r → t.reg q = s.reg q) ∧
      t.pc = s.pc + BitVec.ofNat 16 i.length ∧ KeepsAllBut [.regs, .pc] s t :=
  ⟨_, h, by simp, fun q hq => by simp [hq], rfl, (after_keeps s i).trans (setReg_keeps _ r v)⟩

end Sys2Proof.Machine
end

section
/-! The statements of 42_register_ops R181 to R184. -/

namespace Sys2Proof.Machine

/-- Settles O12: the register holds the word operand, whose integer is `wordOf_toInt`. -/
theorem movConstWritesTheImmediate : Obligations.MovConstWritesTheImmediate := by
  unfold Obligations.MovConstWritesTheImmediate
  intro r h l s
  refine ⟨Spells.of_decode rfl fun _ _ _ => rfl, ?effect⟩
  obtain ⟨t, hexec, hreg, hrest⟩ := exec_effect_of_setReg (i := .movConst r (wordOf h l)) (s := s) rfl
  have hint : t.int r = (wordOf h l).toInt := congrArg BitVec.toInt hreg
  exact ⟨t, hexec, hint.trans (wordOf_toInt h l), hrest⟩

/-- Settles O13: the register holds the source's pattern, read before the write (42_register_ops R180). -/
theorem movCopiesTheSource : Obligations.MovCopiesTheSource := by
  unfold Obligations.MovCopiesTheSource
  intro d e s
  refine ⟨Spells.of_decode rfl fun _ _ _ => rfl, ?effect⟩
  obtain ⟨t, hexec, hreg, hrest⟩ := exec_effect_of_setReg (i := .mov d e) (s := s) rfl
  exact ⟨t, hexec, congrArg BitVec.toInt hreg, hrest⟩

/-- Settles O14: both registers are read in the state before, so one register as both is no special case. -/
theorem addWrapsTheExactSum : Obligations.AddWrapsTheExactSum := by
  unfold Obligations.AddWrapsTheExactSum
  intro d e s
  refine ⟨Spells.of_decode rfl fun _ _ _ => rfl, ?effect⟩
  obtain ⟨t, hexec, hreg, hrest⟩ := exec_effect_of_setReg (i := .add d e) (s := s) rfl
  have hint : t.int d = (wrap16 (s.int d + s.int e)).toInt := congrArg BitVec.toInt hreg
  exact ⟨t, hexec, hint.trans (wrap16_toInt _), hrest⟩

/-- Settles O15: wrapping the sum forgets whether the immediate was wrapped before (`Int.add_bmod_bmod`). -/
theorem addConstWrapsTheExactSum : Obligations.AddConstWrapsTheExactSum := by
  unfold Obligations.AddConstWrapsTheExactSum
  intro r h l s
  refine ⟨Spells.of_decode rfl fun _ _ _ => rfl, ?effect⟩
  obtain ⟨t, hexec, hreg, hrest⟩ := exec_effect_of_setReg (i := .addConst r (wordOf h l)) (s := s) rfl
  have hsigned : t.int r = Int.bmod (s.int r + Int.bmod (h.toNat * 256 + l.toNat) 65536) 65536 := by
    rw [← wordOf_toInt, ← wrap16_toInt]
    exact congrArg BitVec.toInt hreg
  have hunsigned : t.int r = Int.bmod (s.int r + (h.toNat * 256 + l.toNat)) 65536 := by
    rw [hsigned, Int.add_bmod_bmod]
  exact ⟨t, hexec, hsigned, hunsigned, hrest⟩

end Sys2Proof.Machine
end

/-! # The collaborator instructions: one command each (45_collaborator_ops R231, R232, R238) -/

section
/-! SUPPORT. The one shape the command instructions have that neither wait nor halt: move the cursor, then emit one
record. -/

namespace Sys2Proof.Machine

theorem emit_keeps (s : State) (c : Command) : KeepsAllBut [.commands] s (s.emit c) := by
  intro p hp
  cases p <;> simp [Keeps] at hp ⊢

/-- The whole effect of an instruction that moves the cursor past itself and emits one command. -/
theorem exec_effect_of_emit {i : Instr} {s : State} {c : Command} (h : exec i s = .next ((s.after i).emit c)) :
    ∃ t, exec i s = .next t ∧ t.commands = s.commands ++ [c] ∧ t.pc = s.pc + BitVec.ofNat 16 i.length ∧
      KeepsAllBut [.commands, .pc] s t :=
  ⟨_, h, by simp, rfl, (after_keeps s i).trans (emit_keeps _ c)⟩

end Sys2Proof.Machine
end

section
/-! The statement of 45_collaborator_ops R231, R232, R238. -/

namespace Sys2Proof.Machine

/-- Settles O31: each of the three decodes by its format and emits its operands as they are. -/
theorem selectFillAndLoadSendTheirOperands : Obligations.SelectFillAndLoadSendTheirOperands := by
  unfold Obligations.SelectFillAndLoadSendTheirOperands
  refine ⟨fun p s => ?selectPage, fun p k s => ?fillPage, fun h l s => ?updateMemList⟩
  case selectPage =>
    exact ⟨Spells.of_decode rfl fun _ _ _ => rfl, exec_effect_of_emit (i := .selectPage p) rfl⟩
  case fillPage =>
    exact ⟨Spells.of_decode rfl fun _ _ _ => rfl, exec_effect_of_emit (i := .fillPage p k) rfl⟩
  case updateMemList =>
    exact ⟨Spells.of_decode rfl fun _ _ _ => rfl, exec_effect_of_emit (i := .updateMemList (wordOf h l)) rfl⟩

end Sys2Proof.Machine
end

/-! # The Code Store and the parameters: the one step that writes the store (20_memory R62, R76, 40_scheduler R145) -/

section
/-! SUPPORT. What an instruction, the scheduler, a command and a whole step can do to the Code Store and the parameters. -/

namespace Sys2Proof.Machine

variable {s t : State}

/-- No instruction writes the Code Store or the parameters, whether it takes its fault or not (20_memory R62). -/
theorem exec_code_config {i : Instr} (h : exec i s = .next t) : t.code = s.code ∧ t.config = s.config := by
  rcases exec_next h with ⟨cause, rfl, -⟩ | ⟨-, -, -, hcode, hconfig, -⟩
  · exact ⟨raise_code s cause, raise_config s cause⟩
  · exact ⟨hcode, hconfig⟩

theorem selectStep_code_config (s : State) (quit : Bool) :
    (s.selectStep quit).code = s.code ∧ (s.selectStep quit).config = s.config := by
  rcases selectStep_cases s quit with ⟨-, h⟩ | ⟨_, ⟨-, h⟩ | ⟨-, -, h⟩ | ⟨-, -, h⟩⟩ <;> rw [h] <;> exact ⟨rfl, rfl⟩

theorem waitStep_code_config (s : State) (flipDone : Bool) :
    (s.waitStep flipDone).code = s.code ∧ (s.waitStep flipDone).config = s.config := by
  cases flipDone <;> exact ⟨rfl, rfl⟩

/-- Of the commands only `CODE_INSTALL` writes the Code Store, and none writes the parameters: `RESET` keeps both
(assumptions 4 and 7). -/
theorem perform_code_config {c : HostCommand} (h : s.perform c = .next t) :
    t.config = s.config ∧ (t.code = s.code ∨ ∃ bytes, c = .codeInstall bytes) := by
  cases c with
  | codeInstall bytes => obtain ⟨-, rfl⟩ := installCode_next h; exact ⟨rfl, .inr ⟨bytes, rfl⟩⟩
  | _ => cases h; exact ⟨rfl, .inl rfl⟩

/-- `CODE_INSTALL` is taken in `IDLE` only (40_scheduler R130). -/
theorem phase_of_accepted_codeInstall {bytes : List Byte} (h : s.acceptedCommand = some (.codeInstall bytes)) :
    s.phase = .idle := by
  simpa [HostCommand.acceptedIn] using (acceptedCommand_some h).2

/-- A step of the core's own, whatever its phase, writes neither the Code Store nor the parameters. -/
theorem step_code_config_of_none (h : step s = .next t) (hnone : s.acceptedCommand = none) :
    t.code = s.code ∧ t.config = s.config := by
  rcases step_cases h with ⟨c, hc, -⟩ | ⟨-, ⟨-, rfl⟩ | ⟨-, rfl⟩ | ⟨-, rfl⟩ | ⟨-, rfl⟩ |
    ⟨-, -, hend⟩ | ⟨-, -, -, habort⟩ | ⟨-, -, -, ⟨i, -, hexec⟩ | ⟨a, -, rfl⟩⟩⟩
  · simp [hnone] at hc
  · exact ⟨tookInput_code s, tookInput_config s⟩
  · exact ⟨tookInput_code s, tookInput_config s⟩
  · exact selectStep_code_config s.tookInput s.input.quit
  · exact waitStep_code_config s.tookInput s.input.flipDone
  · obtain ⟨hcur, rfl⟩ := endTurn_next hend
    exact ⟨rfl, rfl⟩
  · obtain ⟨hcur, rfl⟩ := abortTurn_next habort
    exact ⟨rfl, rfl⟩
  · exact exec_code_config (s := s.tookInput) hexec
  · exact ⟨rfl, rfl⟩

end Sys2Proof.Machine
end

section
/-! The statement of 20_memory R62 and R76. -/

namespace Sys2Proof.Machine

/-- Settles O52: the core's own step writes neither part (`step_code_config_of_none`), and of the commands only
`CODE_INSTALL` writes the Code Store (`perform_code_config`), which is accepted in `IDLE` only. -/
theorem codeStoreChangesOnlyByInstall : Obligations.CodeStoreChangesOnlyByInstall := by
  unfold Obligations.CodeStoreChangesOnlyByInstall
  intro s t hstep
  cases hc : s.acceptedCommand with
  | none =>
    obtain ⟨hcode, hconfig⟩ := step_code_config_of_none hstep hc
    exact ⟨hconfig, fun hchanged => absurd hcode hchanged⟩
  | some c =>
    rw [step_of_accepted hc] at hstep
    obtain ⟨hconfig, hsame | ⟨bytes, rfl⟩⟩ := perform_code_config hstep
    · exact ⟨hconfig, fun hchanged => absurd hsame hchanged⟩
    · exact ⟨hconfig, fun _ => ⟨phase_of_accepted_codeInstall hc, bytes, rfl⟩⟩

end Sys2Proof.Machine
end

/-! # The decoder: fields on numbers, operands, and the encoder (30_encoding R91 to R107) -/

section
/-! SUPPORT. Each field of an opcode or mode byte as a digit of the byte's number, and the three-way split on the opcode
byte by its number. -/

namespace Sys2Proof

/-! ### Fields (30_encoding R100 to R103, R107) -/

/-- A field of a byte is a digit of its number. -/
theorem extractLsb'_toNat_eq_div_mod (b : Byte) (lo n : Nat) :
    (b.extractLsb' lo n).toNat = b.toNat / 2 ^ lo % 2 ^ n := by
  rw [BitVec.extractLsb'_toNat, Nat.shiftRight_eq_div_pow]

theorem xMode_eq (op : Byte) : xMode op = [Mode.imm16, .reg, .imm8, .imm8p].getD (op.toNat / 16 % 4) .none := by
  have hfield : (op.extractLsb' 4 2).toNat = op.toNat / 16 % 4 := extractLsb'_toNat_eq_div_mod op 4 2
  rw [← hfield, xMode]
  generalize op.extractLsb' 4 2 = field
  revert field
  decide

theorem yMode_eq (op : Byte) : yMode op = [Mode.imm16, .reg, .imm8, .imm8].getD (op.toNat / 4 % 4) .none := by
  have hfield : (op.extractLsb' 2 2).toNat = op.toNat / 4 % 4 := extractLsb'_toNat_eq_div_mod op 2 2
  rw [← hfield, yMode]
  generalize op.extractLsb' 2 2 = field
  revert field
  decide

theorem zoomMode_eq (op : Byte) : zoomMode op = [Mode.none, .reg, .imm8, .none2].getD (op.toNat % 4) .none := by
  have hfield : (op.extractLsb' 0 2).toNat = op.toNat % 4 := by simp
  rw [← hfield, zoomMode]
  generalize op.extractLsb' 0 2 = field
  revert field
  decide

theorem condMode_eq (m : Byte) : condMode m = [Mode.imm8, .imm16, .reg, .reg].getD (m.toNat / 64) .none := by
  have hfield : (m.extractLsb' 6 2).toNat = m.toNat / 64 := by
    have := m.isLt
    rw [extractLsb'_toNat_eq_div_mod]
    omega
  rw [← hfield, condMode]
  generalize m.extractLsb' 6 2 = field
  revert field
  decide

theorem condCmp_eq (m : Byte) :
    condCmp m = [Cmp.eq, .ne, .gt, .ge, .lt, .le, .reserved6, .reserved7].getD (m.toNat % 8) .reserved7 := by
  have hfield : (m.extractLsb' 0 3).toNat = m.toNat % 8 := by simp
  rw [← hfield, condCmp]
  generalize m.extractLsb' 0 3 = field
  revert field
  decide

/-- The encoder's code of a comparison is the number the decoder reads it from. -/
theorem condCmp_code (m : Byte) : (condCmp m).code.toNat = m.toNat % 8 := by
  have hdigit : m.toNat % 8 < 8 := Nat.mod_lt _ (by decide)
  rw [condCmp_eq]
  generalize m.toNat % 8 = digit at hdigit
  revert digit
  decide

theorem lastChannel_eq (lastEncoded : Byte) : lastChannel lastEncoded = lastEncoded.toNat % 64 := by
  simp [lastChannel]

/-! ### The three-way split on the opcode byte (30_encoding R91) -/

theorem getLsbD_seven_iff (op : Byte) : op.getLsbD 7 = true ↔ 128 ≤ op.toNat := by
  have hop := op.isLt
  simp only [BitVec.getLsbD, Nat.testBit_eq_decide_div_mod_eq, decide_eq_true_eq]
  omega

theorem getLsbD_six_iff (op : Byte) : op.getLsbD 6 = true ↔ op.toNat / 64 % 2 = 1 := by
  simp [BitVec.getLsbD, Nat.testBit_eq_decide_div_mod_eq]

variable {cfg : Config} {op : Byte} {bs : List Byte}

theorem decodeAfter_of_long (h : 128 ≤ op.toNat) : decodeAfter cfg op bs = formPL op bs :=
  if_pos ((getLsbD_seven_iff op).2 h)

theorem decodeAfter_of_short (h : op.toNat / 64 = 1) : decodeAfter cfg op bs = formPS op bs := by
  have h7 : ¬ op.getLsbD 7 = true := by rw [getLsbD_seven_iff]; omega
  have h6 : op.getLsbD 6 = true := by rw [getLsbD_six_iff]; omega
  rw [decodeAfter, if_neg h7, if_pos h6]

theorem decodeAfter_of_table (h : op.toNat < 64) : decodeAfter cfg op bs = decodeTable cfg op bs := by
  have h7 : ¬ op.getLsbD 7 = true := by rw [getLsbD_seven_iff]; omega
  have h6 : ¬ op.getLsbD 6 = true := by rw [getLsbD_six_iff]; omega
  rw [decodeAfter, if_neg h7, if_neg h6]

/-- Every opcode byte is of one of the three tiers. -/
theorem opcode_tier (op : Byte) : 128 ≤ op.toNat ∨ op.toNat / 64 = 1 ∨ op.toNat < 64 := by
  omega

end Sys2Proof
end

section
/-! SUPPORT. Words and operands as bytes: the encoder's bytes are the ones the decoder takes. -/

namespace Sys2Proof

/-! ### Words (30_encoding R95) -/

@[simp] theorem highByte_wordOf (h l : Byte) : highByte (wordOf h l) = h := by
  have hl := l.isLt
  have hh := h.isLt
  apply BitVec.eq_of_toNat_eq
  rw [highByte, BitVec.extractLsb'_toNat, wordOf_toNat, Nat.shiftRight_eq_div_pow]
  omega

@[simp] theorem lowByte_wordOf (h l : Byte) : lowByte (wordOf h l) = l := by
  have hl := l.isLt
  apply BitVec.eq_of_toNat_eq
  rw [lowByte, BitVec.extractLsb'_toNat, wordOf_toNat, Nat.shiftRight_eq_div_pow]
  omega

@[simp] theorem wordOf_high_low (w : Word) : wordOf (highByte w) (lowByte w) = w := by
  have hw := w.isLt
  apply BitVec.eq_of_toNat_eq
  rw [wordOf_toNat, highByte, lowByte, BitVec.extractLsb'_toNat, BitVec.extractLsb'_toNat,
    Nat.shiftRight_eq_div_pow, Nat.shiftRight_eq_div_pow]
  omega

@[simp] theorem wordBytes_wordOf (h l : Byte) : wordBytes (wordOf h l) = [h, l] := by
  simp [wordBytes]

/-! ### Operands (30_encoding R97, R98) -/

/-- How many bytes an operand of a mode takes. -/
def Mode.size : Mode → Nat
  | .imm8 => 1
  | .imm16 => 2
  | .reg => 1
  | .imm8p => 1
  | .none => 0
  | .none2 => 0

theorem Operand.mode_size (o : Operand) : o.mode.size = o.size := by
  cases o <;> rfl

/-- An operand is taken from exactly its own bytes, under its own mode. -/
theorem takeOperand_eq_some {m : Mode} {bs rest : List Byte} {o : Operand} :
    takeOperand m bs = some (o, rest) ↔ o.mode = m ∧ bs = o.bytes ++ rest := by
  constructor
  · intro h
    unfold takeOperand at h
    split at h <;> cases h <;> simp [Operand.mode, Operand.bytes]
  · rintro ⟨rfl, rfl⟩
    cases o with
    | imm16 w => simp [Operand.mode, Operand.bytes, wordBytes, takeOperand]
    | _ => rfl

/-- As many bytes as the mode takes are enough. -/
theorem takeOperand_of_length {m : Mode} {bs : List Byte} (h : m.size ≤ bs.length) :
    ∃ o rest, takeOperand m bs = some (o, rest) ∧ m.size + rest.length = bs.length := by
  cases m with
  | none => exact ⟨.none, bs, rfl, Nat.zero_add _⟩
  | none2 => exact ⟨.none2, bs, rfl, Nat.zero_add _⟩
  | imm16 =>
    obtain ⟨hi, lo, rest, rfl⟩ : ∃ hi lo rest, bs = hi :: lo :: rest := by
      match bs, h with
      | hi :: lo :: rest, _ => exact ⟨hi, lo, rest, rfl⟩
    exact ⟨.imm16 (wordOf hi lo), rest, rfl, by simp [Mode.size]; omega⟩
  | imm8 =>
    obtain ⟨b, rest, rfl⟩ := List.exists_cons_of_length_pos h
    exact ⟨.imm8 b, rest, rfl, Nat.add_comm ..⟩
  | reg =>
    obtain ⟨b, rest, rfl⟩ := List.exists_cons_of_length_pos h
    exact ⟨.reg b, rest, rfl, Nat.add_comm ..⟩
  | imm8p =>
    obtain ⟨b, rest, rfl⟩ := List.exists_cons_of_length_pos h
    exact ⟨.imm8p b, rest, rfl, Nat.add_comm ..⟩

/-! ### The mode fields the encoder writes (30_encoding R100 to R103, R110) -/

theorem condMode_encoded {o : Operand} (h : o.fitsCond = true) (c : Cmp) :
    condMode (condBits o ++ 0#3 ++ c.code) = o.mode := by
  have hfield : ∀ (bits : BitVec 2) (code : BitVec 3), (bits ++ 0#3 ++ code).extractLsb' 6 2 = bits := by decide
  rw [condMode, hfield]
  cases o with
  | imm8 | imm16 | reg => rfl
  | imm8p | none | none2 => exact absurd h Bool.false_ne_true

theorem condCmp_encoded (o : Operand) (c : Cmp) : condCmp (condBits o ++ 0#3 ++ c.code) = c := by
  have hfield : ∀ (bits : BitVec 2) (code : BitVec 3), (bits ++ 0#3 ++ code).extractLsb' 0 3 = code := by decide
  rw [condCmp, hfield]
  cases c <;> rfl

/-- The opcode byte the encoder writes for `drawPolygonS`. -/
def shortOpcode (x y z : Operand) : Byte := 1#2 ++ xBits x ++ yBits y ++ zoomBits z

theorem shortOpcode_tier (x y z : Operand) : (shortOpcode x y z).toNat / 64 = 1 := by
  have hfield : ∀ a b c : BitVec 2, (1#2 ++ a ++ b ++ c).toNat / 64 = 1 := by decide
  exact hfield ..

theorem xMode_shortOpcode {x : Operand} (h : x.fitsX = true) (y z : Operand) : xMode (shortOpcode x y z) = x.mode := by
  have hfield : ∀ a b c : BitVec 2, (1#2 ++ a ++ b ++ c).extractLsb' 4 2 = a := by decide
  rw [xMode, shortOpcode, hfield]
  cases x with
  | imm8 | imm16 | reg | imm8p => rfl
  | none | none2 => exact absurd h Bool.false_ne_true

theorem yMode_shortOpcode {y : Operand} (h : y.fitsY = true) (x z : Operand) : yMode (shortOpcode x y z) = y.mode := by
  have hfield : ∀ a b c : BitVec 2, (1#2 ++ a ++ b ++ c).extractLsb' 2 2 = b := by decide
  rw [yMode, shortOpcode, hfield]
  cases y with
  | imm8 | imm16 | reg => rfl
  | imm8p | none | none2 => exact absurd h Bool.false_ne_true

theorem zoomMode_shortOpcode {z : Operand} (h : z.fitsZoom = true) (x y : Operand) :
    zoomMode (shortOpcode x y z) = z.mode := by
  have hfield : ∀ a b c : BitVec 2, (1#2 ++ a ++ b ++ c).extractLsb' 0 2 = c := by decide
  rw [zoomMode, shortOpcode, hfield]
  cases z with
  | imm8 | reg | none | none2 => rfl
  | imm16 | imm8p => exact absurd h Bool.false_ne_true

end Sys2Proof
end

/-! # The decoder: decoding an encoding, and the length of what is decoded (30_encoding R90 to R105) -/

section
/-! SUPPORT. What the decoder answers on bytes that start with an encoding. -/

namespace Sys2Proof

variable {cfg : Config}

/-- An instruction of one word, read back from the word's own bytes. -/
theorem ok_of_wordBytes (k : Word → Instr) (w : Word) (rest : List Byte) :
    (Except.ok (k (wordOf (highByte w) (lowByte w)), rest) : Except DecodeError (Instr × List Byte)) =
      .ok (k w, rest) := by
  rw [wordOf_high_low]

/-- `condJmp` from its bytes, whatever the mode byte's ignored bits hold (30_encoding R100, R107). -/
theorem decode_condJmp {m : Byte} {right : Operand} (h : right.mode = condMode m) (r hi lo : Byte) (rest : List Byte) :
    decode cfg (0x0A :: m :: r :: (right.bytes ++ hi :: lo :: rest)) =
      .ok (.condJmp (condCmp m) r right (wordOf hi lo), rest) :=
  decode_cons_eq_ok_iff.2 <| formCJ_eq_some.2
    ⟨m, r, _, right, hi, lo, rfl, takeOperand_eq_some.2 ⟨h, rfl⟩, rfl⟩

/-- `drawPolygonS` from its bytes, whatever the opcode byte's ignored bits hold (30_encoding R101 to R103). -/
theorem decode_drawPolygonS {op : Byte} {x y z : Operand} (htier : op.toNat / 64 = 1) (hx : x.mode = xMode op)
    (hy : y.mode = yMode op) (hz : z.mode = zoomMode op) (hi lo : Byte) (rest : List Byte) :
    decode cfg (op :: hi :: lo :: (x.bytes ++ (y.bytes ++ (z.bytes ++ rest)))) =
      .ok (.drawPolygonS (wordOf hi lo) x y z, rest) := by
  rw [decode_cons_eq_ok_iff, decodeAfter_of_short htier, formPS_eq_some]
  exact ⟨hi, lo, _, x, _, y, _, z, rfl, takeOperand_eq_some.2 ⟨hx, rfl⟩, takeOperand_eq_some.2 ⟨hy, rfl⟩,
    takeOperand_eq_some.2 ⟨hz, rfl⟩, rfl⟩

/-- The half-offset of `drawPolygonL` is the low 15 bits of its first two bytes (30_encoding R112). -/
theorem halfOffset_toNat (op b : Byte) : (op.extractLsb' 0 7 ++ b).toNat = op.toNat % 128 * 256 + b.toNat := by
  rw [BitVec.toNat_append, ← Nat.shiftLeft_add_eq_or_of_lt b.isLt, Nat.shiftLeft_eq]
  simp

theorem decode_drawPolygonL {op b : Byte} {half : BitVec 15} (h : op.toNat * 256 + b.toNat = 0x8000 + half.toNat)
    (x y : Byte) (rest : List Byte) :
    decode cfg (op :: b :: x :: y :: rest) = .ok (.drawPolygonL half x y, rest) := by
  have hb := b.isLt
  have hop := op.isLt
  have hbytes := halfOffset_toNat op b
  have hhalf : op.extractLsb' 0 7 ++ b = half := by
    apply BitVec.eq_of_toNat_eq
    omega
  rw [decode_cons_eq_ok_iff, decodeAfter_of_long (by omega), formPL_eq_some]
  exact ⟨b, x, y, rfl, by rw [hhalf]⟩

/-- The two bytes the encoder writes for a half-offset. -/
theorem halfOffset_encoded (half : BitVec 15) :
    (1#1 ++ half.extractLsb' 8 7 : Byte).toNat * 256 + (half.extractLsb' 0 8 : Byte).toNat = 0x8000 + half.toNat := by
  have hhalf := half.isLt
  have hlow : (half.extractLsb' 8 7).toNat < 2 ^ 7 := (half.extractLsb' 8 7).isLt
  rw [BitVec.toNat_append, ← Nat.shiftLeft_add_eq_or_of_lt hlow, Nat.shiftLeft_eq]
  simp only [BitVec.extractLsb'_toNat, Nat.shiftRight_eq_div_pow, BitVec.toNat_ofNat]
  omega

theorem isIllegalOp_iff (op : Byte) : isIllegalOp op = true ↔ 0x1B ≤ op.toNat ∧ op.toNat ≤ 0x3F := by
  simp only [isIllegalOp, maxOpcode, Bool.and_eq_true, decide_eq_true_eq, BitVec.lt_def]
  change 0x1A < op.toNat ∧ op.toNat < 0x40 ↔ _
  omega

end Sys2Proof
end

section
/-! The statement that decoding undoes encoding. -/

namespace Sys2Proof

/-- Settles O1, by cases on the instruction: a fixed layout decodes by its format, its words by `wordOf_high_low`; the
mode-selected operands by their formats' equations at the fields the encoder writes. -/
theorem decodeOfEncodeGivesTheInstruction : Obligations.DecodeOfEncodeGivesTheInstruction := by
  unfold Obligations.DecodeOfEncodeGivesTheInstruction
  intro cfg i rest hwf
  cases i with
  | movConst r w => exact ok_of_wordBytes (.movConst r) w rest
  | addConst r w => exact ok_of_wordBytes (.addConst r) w rest
  | call t => exact ok_of_wordBytes .call t rest
  | jmp t => exact ok_of_wordBytes .jmp t rest
  | setVec c o => exact ok_of_wordBytes (.setVec c) o rest
  | jnz r t => exact ok_of_wordBytes (.jnz r) t rest
  | setPalette w => exact ok_of_wordBytes .setPalette w rest
  | drawString w x y k => exact ok_of_wordBytes (.drawString · x y k) w rest
  | and r w => exact ok_of_wordBytes (.and r) w rest
  | or r w => exact ok_of_wordBytes (.or r) w rest
  | shl r n => exact ok_of_wordBytes (.shl r) n rest
  | shr r n => exact ok_of_wordBytes (.shr r) n rest
  | playSound w f v c => exact ok_of_wordBytes (.playSound · f v c) w rest
  | updateMemList n => exact ok_of_wordBytes .updateMemList n rest
  | playMusic w d p =>
    calc decode cfg (encode (.playMusic w d p) ++ rest)
        = .ok (.playMusic (wordOf (highByte w) (lowByte w)) (wordOf (highByte d) (lowByte d)) p, rest) := rfl
      _ = .ok (.playMusic w d p, rest) := by rw [wordOf_high_low, wordOf_high_low]
  | condJmp c r right t =>
    have hbytes : encode (.condJmp c r right t) ++ rest = 0x0A :: (condBits right ++ 0#3 ++ c.code) :: r ::
        (right.bytes ++ highByte t :: lowByte t :: rest) := by simp [encode, wordBytes]
    rw [hbytes, decode_condJmp (condMode_encoded hwf c).symm, condCmp_encoded, wordOf_high_low]
  | drawPolygonS w x y z =>
    simp only [Instr.wellFormed, Bool.and_eq_true] at hwf
    obtain ⟨⟨hx, hy⟩, hz⟩ := hwf
    have hbytes : encode (.drawPolygonS w x y z) ++ rest = shortOpcode x y z :: highByte w :: lowByte w ::
        (x.bytes ++ (y.bytes ++ (z.bytes ++ rest))) := by simp [encode, wordBytes, shortOpcode]
    rw [hbytes, decode_drawPolygonS (shortOpcode_tier x y z) (xMode_shortOpcode hx y z).symm
      (yMode_shortOpcode hy x z).symm (zoomMode_shortOpcode hz x y).symm, wordOf_high_low]
  | drawPolygonL half x y => exact decode_drawPolygonL (halfOffset_encoded half) x y rest
  | resetScript f l m =>
    have hm : m.isNone = omitsMode cfg f l := by simpa [Instr.wellFormed] using hwf
    exact decode_cons_eq_ok_iff.2 (formReset_eq_some.2 ⟨f, l, m, rfl, hm, rfl⟩)
  | illegal op => exact decode_eq_illegal_iff.2 ⟨(isIllegalOp_iff op).1 hwf, rfl, rfl⟩
  | _ => rfl

end Sys2Proof
end

section
/-! SUPPORT. For each format, that what it answers is well formed and how many bytes it took. -/

namespace Sys2Proof

variable {cfg : Config} {op : Byte}

/-! ### Well-formed operands by their fields -/

theorem fitsCond_of_mode {o : Operand} {m : Byte} (h : o.mode = condMode m) : o.fitsCond = true := by
  have hmode : condMode m ∈ [Mode.imm8, .imm16, .reg] := by
    unfold condMode
    split <;> decide
  simpa [Operand.fitsCond, h] using hmode

theorem fitsX_of_mode {o : Operand} (h : o.mode = xMode op) : o.fitsX = true := by
  have hmode : xMode op ∈ [Mode.imm16, .reg, .imm8, .imm8p] := by
    unfold xMode
    split <;> decide
  simpa [Operand.fitsX, h] using hmode

theorem fitsY_of_mode {o : Operand} (h : o.mode = yMode op) : o.fitsY = true := by
  have hmode : yMode op ∈ [Mode.imm16, .reg, .imm8] := by
    unfold yMode
    split <;> decide
  simpa [Operand.fitsY, h] using hmode

theorem fitsZoom_of_mode {o : Operand} (h : o.mode = zoomMode op) : o.fitsZoom = true := by
  have hmode : zoomMode op ∈ [Mode.none, .reg, .imm8, .none2] := by
    unfold zoomMode
    split <;> decide
  simpa [Operand.fitsZoom, h] using hmode

/-! ### Formats -/

/-- Some bytes after the opcode were read as an instruction: it is well formed, its length is `n`, and the opcode with
the bytes taken are `n` bytes. -/
structure Measured (cfg : Config) (bs : List Byte) (i : Instr) (rest : List Byte) (n : Nat) : Prop where
  wellFormed : i.wellFormed cfg = true
  length : i.length = n
  taken : ∃ taken, bs = taken ++ rest ∧ taken.length + 1 = n

/-- A format reads `n bs` bytes of `bs`, opcode byte included, whenever it answers. -/
def Reads (cfg : Config) (form : List Byte → Parsed) (n : List Byte → Nat) : Prop :=
  ∀ ⦃bs i rest⦄, form bs = some (i, rest) → Measured cfg bs i rest (n bs)

theorem formN_reads {j : Instr} (hwf : j.wellFormed cfg = true) (hlen : j.length = 1) :
    Reads cfg (formN j) fun _ => 1 := by
  intro bs i rest h
  obtain ⟨rfl, rfl⟩ := formN_eq_some.1 h
  exact ⟨hwf, hlen, [], rfl, rfl⟩

theorem formB_reads {k : Byte → Instr} (hwf : ∀ b, (k b).wellFormed cfg = true) (hlen : ∀ b, (k b).length = 2) :
    Reads cfg (formB k) fun _ => 2 := by
  intro bs i rest h
  obtain ⟨b, rfl, rfl⟩ := formB_eq_some.1 h
  exact ⟨hwf b, hlen b, [b], rfl, rfl⟩

theorem formBB_reads {k : Byte → Byte → Instr} (hwf : ∀ b c, (k b c).wellFormed cfg = true)
    (hlen : ∀ b c, (k b c).length = 3) : Reads cfg (formBB k) fun _ => 3 := by
  intro bs i rest h
  obtain ⟨b, c, rfl, rfl⟩ := formBB_eq_some.1 h
  exact ⟨hwf b c, hlen b c, [b, c], rfl, rfl⟩

theorem formW_reads {k : Word → Instr} (hwf : ∀ w, (k w).wellFormed cfg = true) (hlen : ∀ w, (k w).length = 3) :
    Reads cfg (formW k) fun _ => 3 := by
  intro bs i rest h
  obtain ⟨hi, lo, rfl, rfl⟩ := formW_eq_some.1 h
  exact ⟨hwf _, hlen _, [hi, lo], rfl, rfl⟩

theorem formBW_reads {k : Byte → Word → Instr} (hwf : ∀ b w, (k b w).wellFormed cfg = true)
    (hlen : ∀ b w, (k b w).length = 4) : Reads cfg (formBW k) fun _ => 4 := by
  intro bs i rest h
  obtain ⟨b, hi, lo, rfl, rfl⟩ := formBW_eq_some.1 h
  exact ⟨hwf _ _, hlen _ _, [b, hi, lo], rfl, rfl⟩

theorem formWBBB_reads {k : Word → Byte → Byte → Byte → Instr}
    (hwf : ∀ w b c d, (k w b c d).wellFormed cfg = true) (hlen : ∀ w b c d, (k w b c d).length = 6) : Reads cfg (formWBBB k) fun _ => 6 := by
  intro bs i rest h
  obtain ⟨hi, lo, b, c, d, rfl, rfl⟩ := formWBBB_eq_some.1 h
  exact ⟨hwf _ _ _ _, hlen _ _ _ _, [hi, lo, b, c, d], rfl, rfl⟩

theorem formWWB_reads {k : Word → Word → Byte → Instr} (hwf : ∀ w v b, (k w v b).wellFormed cfg = true)
    (hlen : ∀ w v b, (k w v b).length = 6) : Reads cfg (formWWB k) fun _ => 6 := by
  intro bs i rest h
  obtain ⟨hi, lo, hi', lo', b, rfl, rfl⟩ := formWWB_eq_some.1 h
  exact ⟨hwf _ _ _, hlen _ _ _, [hi, lo, hi', lo', b], rfl, rfl⟩

/-- `resetScript` is 3 bytes where its mode byte is left, 4 else (44_channel_ops R221). -/
def resetLength (cfg : Config) (bs : List Byte) : Nat := if omitsMode cfg (bs.getD 0 0) (bs.getD 1 0) then 3 else 4

theorem formReset_reads (cfg : Config) : Reads cfg (formReset cfg) (resetLength cfg) := by
  intro bs i rest h
  obtain ⟨f, l, m, rfl, hm, rfl⟩ := formReset_eq_some.1 h
  have hlen : resetLength cfg (f :: l :: (m.toList ++ rest)) = if omitsMode cfg f l then 3 else 4 := rfl
  rw [hlen, ← hm]
  have hwf : (Instr.resetScript f l m).wellFormed cfg = true := by simp [Instr.wellFormed, hm]
  cases m with
  | none => exact ⟨hwf, rfl, [f, l], rfl, rfl⟩
  | some b => exact ⟨hwf, rfl, [f, l, b], rfl, rfl⟩

/-- `condJmp` is 7 bytes with a word operand, 6 else (30_encoding R93). -/
def condJmpLength (bs : List Byte) : Nat := if (bs.headD 0).toNat / 64 = 1 then 7 else 6

theorem condMode_size (m : Byte) : (condMode m).size = if m.toNat / 64 = 1 then 2 else 1 := by
  have hm := m.isLt
  have hdigit : m.toNat / 64 < 4 := by omega
  rw [condMode_eq]
  generalize m.toNat / 64 = digit at hdigit
  revert digit
  decide

theorem formCJ_reads (cfg : Config) : Reads cfg formCJ condJmpLength := by
  intro bs i rest h
  obtain ⟨m, r, tail, right, hi, lo, rfl, hright, rfl⟩ := formCJ_eq_some.1 h
  obtain ⟨hmode, rfl⟩ := takeOperand_eq_some.1 hright
  have hsize : right.size = if m.toNat / 64 = 1 then 2 else 1 := by
    rw [← right.mode_size, hmode, condMode_size]
  have hlen : 5 + right.size = condJmpLength (m :: r :: (right.bytes ++ hi :: lo :: rest)) := by
    rw [hsize, condJmpLength, List.headD_cons]
    split_ifs <;> rfl
  refine ⟨fitsCond_of_mode hmode, hlen, m :: r :: (right.bytes ++ [hi, lo]), by simp, ?_⟩
  rw [← hlen]
  simp [Laws.EncodedLength.operand_bytes]
  omega

theorem formPL_reads (cfg : Config) (op : Byte) : Reads cfg (formPL op) fun _ => 4 := by
  intro bs i rest h
  obtain ⟨b, x, y, rfl, rfl⟩ := formPL_eq_some.1 h
  exact ⟨rfl, rfl, [b, x, y], rfl, rfl⟩

/-- The length of `drawPolygonS` by its mode fields (30_encoding R93). -/
def shortLength (op : Byte) : Nat :=
  3 + (if op.toNat / 16 % 4 = 0 then 2 else 1) + (if op.toNat / 4 % 4 = 0 then 2 else 1) +
    (if op.toNat % 4 = 1 ∨ op.toNat % 4 = 2 then 1 else 0)

theorem xMode_size (op : Byte) : (xMode op).size = if op.toNat / 16 % 4 = 0 then 2 else 1 := by
  have hdigit : op.toNat / 16 % 4 < 4 := Nat.mod_lt _ (by decide)
  rw [xMode_eq]
  generalize op.toNat / 16 % 4 = digit at hdigit
  revert digit
  decide

theorem yMode_size (op : Byte) : (yMode op).size = if op.toNat / 4 % 4 = 0 then 2 else 1 := by
  have hdigit : op.toNat / 4 % 4 < 4 := Nat.mod_lt _ (by decide)
  rw [yMode_eq]
  generalize op.toNat / 4 % 4 = digit at hdigit
  revert digit
  decide

theorem zoomMode_size (op : Byte) : (zoomMode op).size = if op.toNat % 4 = 1 ∨ op.toNat % 4 = 2 then 1 else 0 := by
  have hdigit : op.toNat % 4 < 4 := Nat.mod_lt _ (by decide)
  rw [zoomMode_eq]
  generalize op.toNat % 4 = digit at hdigit
  revert digit
  decide

/-- Three operands of the opcode byte's modes have the length those modes give. -/
theorem drawPolygonS_length {x y z : Operand} (hx : x.mode = xMode op) (hy : y.mode = yMode op)
    (hz : z.mode = zoomMode op) (w : Word) : (Instr.drawPolygonS w x y z).length = shortLength op := by
  rw [Instr.length, shortLength, ← x.mode_size, ← y.mode_size, ← z.mode_size, hx, hy, hz, xMode_size, yMode_size,
    zoomMode_size]

theorem formPS_reads (cfg : Config) (op : Byte) : Reads cfg (formPS op) fun _ => shortLength op := by
  intro bs i rest h
  obtain ⟨hi, lo, afterW, x, afterX, y, afterY, z, rfl, hx, hy, hz, rfl⟩ := formPS_eq_some.1 h
  rw [takeOperand_eq_some] at hx hy hz
  obtain ⟨hx, rfl⟩ := hx
  obtain ⟨hy, rfl⟩ := hy
  obtain ⟨hz, rfl⟩ := hz
  have hlen := drawPolygonS_length hx hy hz (wordOf hi lo)
  refine ⟨by simp [Instr.wellFormed, fitsX_of_mode hx, fitsY_of_mode hy, fitsZoom_of_mode hz], hlen,
    hi :: lo :: (x.bytes ++ y.bytes ++ z.bytes), by simp, ?_⟩
  rw [← hlen]
  simp [Instr.length, Laws.EncodedLength.operand_bytes]
  omega

/-! ### The decoder -/

/-- The lengths of the dispatch table, by opcode byte (30_encoding R93, R104); `condJmp` and `resetScript` apart. -/
def tableLength (cfg : Config) (op : Byte) (bs : List Byte) : Nat :=
  if op.toNat = 0x0A then condJmpLength bs
  else if op.toNat = 0x0C then resetLength cfg bs
  else [4, 3, 3, 4, 3, 1, 1, 3, 4, 4, 0, 3, 4, 2, 3, 3, 2, 1, 6, 3, 4, 4, 4, 4, 6, 3, 6].getD op.toNat 1

theorem decodeTable_reads (cfg : Config) (hop : op.toNat < 64) :
    Reads cfg (decodeTable cfg op) (tableLength cfg op) := by
  unfold decodeTable
  split
  case h_1 => exact formBW_reads (fun _ _ => rfl) fun _ _ => rfl
  case h_2 => exact formBB_reads (fun _ _ => rfl) fun _ _ => rfl
  case h_3 => exact formBB_reads (fun _ _ => rfl) fun _ _ => rfl
  case h_4 => exact formBW_reads (fun _ _ => rfl) fun _ _ => rfl
  case h_5 => exact formW_reads (fun _ => rfl) fun _ => rfl
  case h_6 => exact formN_reads rfl rfl
  case h_7 => exact formN_reads rfl rfl
  case h_8 => exact formW_reads (fun _ => rfl) fun _ => rfl
  case h_9 => exact formBW_reads (fun _ _ => rfl) fun _ _ => rfl
  case h_10 => exact formBW_reads (fun _ _ => rfl) fun _ _ => rfl
  case h_11 => exact formCJ_reads cfg
  case h_12 => exact formW_reads (fun _ => rfl) fun _ => rfl
  case h_13 => exact formReset_reads cfg
  case h_14 => exact formB_reads (fun _ => rfl) fun _ => rfl
  case h_15 => exact formBB_reads (fun _ _ => rfl) fun _ _ => rfl
  case h_16 => exact formBB_reads (fun _ _ => rfl) fun _ _ => rfl
  case h_17 => exact formB_reads (fun _ => rfl) fun _ => rfl
  case h_18 => exact formN_reads rfl rfl
  case h_19 => exact formWBBB_reads (fun _ _ _ _ => rfl) fun _ _ _ _ => rfl
  case h_20 => exact formBB_reads (fun _ _ => rfl) fun _ _ => rfl
  case h_21 => exact formBW_reads (fun _ _ => rfl) fun _ _ => rfl
  case h_22 => exact formBW_reads (fun _ _ => rfl) fun _ _ => rfl
  case h_23 => exact formBW_reads (fun _ _ => rfl) fun _ _ => rfl
  case h_24 => exact formBW_reads (fun _ _ => rfl) fun _ _ => rfl
  case h_25 => exact formWBBB_reads (fun _ _ _ _ => rfl) fun _ _ _ _ => rfl
  case h_26 => exact formW_reads (fun _ => rfl) fun _ => rfl
  case h_27 => exact formWWB_reads (fun _ _ _ => rfl) fun _ _ _ => rfl
  case h_28 =>
    have hlo : 0x1B ≤ op.toNat := by
      simp only [imp_false] at *
      bv_omega
    have hlen : tableLength cfg op = fun _ => 1 := by
      funext bs
      rw [tableLength, if_neg (by omega), if_neg (by omega), List.getD_eq_default _ _ hlo]
    rw [hlen]
    exact formN_reads ((isIllegalOp_iff op).2 ⟨hlo, by omega⟩) rfl

/-- The length finder (30_encoding R93): the opcode byte's tier, and inside it the mode fields or the table. -/
def decodedLength (cfg : Config) (op : Byte) (bs : List Byte) : Nat :=
  if 128 ≤ op.toNat then 4 else if 64 ≤ op.toNat then shortLength op else tableLength cfg op bs

theorem decode_reads {bs rest : List Byte} {i : Instr} (h : decode cfg (op :: bs) = .ok (i, rest)) :
    Measured cfg bs i rest (decodedLength cfg op bs) := by
  rw [decode_cons_eq_ok_iff] at h
  unfold decodedLength
  rcases opcode_tier op with hlong | hshort | htable
  · rw [decodeAfter_of_long hlong] at h
    rw [if_pos hlong]
    exact formPL_reads cfg op h
  · rw [decodeAfter_of_short hshort] at h
    rw [if_neg (by omega), if_pos (by omega)]
    exact formPS_reads cfg op h
  · rw [decodeAfter_of_table htable] at h
    rw [if_neg (by omega), if_neg (by omega)]
    exact decodeTable_reads cfg htable h

/-- 1 to 8 bytes (30_encoding R90). -/
theorem length_bounds {i : Instr} (h : i.wellFormed cfg = true) : 1 ≤ i.length ∧ i.length ≤ 8 := by
  cases i with
  | condJmp c r right t => exact (Laws.EncodedLength.condJmp c r right t).2 cfg h
  | resetScript f l m => exact (Laws.EncodedLength.resetScript f l m).2 cfg h
  | drawPolygonS w x y z => exact (Laws.EncodedLength.drawPolygonS w x y z).2 cfg h
  | _ => simp [Instr.length]

end Sys2Proof
end

section
/-! The statements of the decoder's fields, samples, lengths and well-formed answers. -/

namespace Sys2Proof

/-- Settles O5: each field is the digit of the byte's number that its lemma names. -/
theorem fieldsAreReadFromTheirBits : Obligations.FieldsAreReadFromTheirBits := by
  unfold Obligations.FieldsAreReadFromTheirBits
  exact ⟨wordOf_toNat, xMode_eq, yMode_eq, zoomMode_eq, condMode_eq, condCmp_eq, condCmp_code, lastChannel_eq⟩

/-- Settles O6: each sample is the encoding of its instruction, so `decodeOfEncodeGivesTheInstruction` reads it back. -/
theorem sampleWordsDecode : Obligations.SampleWordsDecode := by
  have sample (i : Instr) (h : i.wellFormed Config.default = true) :
      decode Config.default (encode i) = .ok (i, []) := by
    have := decodeOfEncodeGivesTheInstruction Config.default i [] h
    rwa [List.append_nil] at this
  unfold Obligations.SampleWordsDecode
  exact ⟨sample (.sub 4 5) rfl, sample (.condJmp .gt 7 (.imm16 0xFF38) 0x0100) rfl, sample (.setVec 1 0x0005) rfl,
    sample (.drawString 0x0190 20 100 15) rfl, sample (.drawPolygonL 0x0010 100 200) rfl,
    sample (.drawPolygonS 0x1234 (.reg 1) (.reg 2) (.reg 3)) rfl⟩

/-- Settles O2, by what each format reads (`decode_reads`). -/
theorem decodedInstructionIsWellFormedAndMeasured : Obligations.DecodedInstructionIsWellFormedAndMeasured := by
  unfold Obligations.DecodedInstructionIsWellFormedAndMeasured
  intro cfg bs rest i h
  cases bs with
  | nil => cases h
  | cons op bs =>
    obtain ⟨hwf, hlen, taken, rfl, htaken⟩ := decode_reads h
    exact ⟨hwf, op :: taken, rfl, by rw [hlen, ← htaken]; rfl, length_bounds hwf⟩

/-- Settles O3: at the parameter's default `resetScript` always has its mode byte, and the length read is the table's. -/
theorem lengthFollowsTheOpcodeByte : Obligations.LengthFollowsTheOpcodeByte := by
  unfold Obligations.LengthFollowsTheOpcodeByte
  intro cfg op bs rest i hshort h
  have hreset : resetLength cfg bs = 4 := by simp [resetLength, omitsMode, hshort]
  have htable : tableLength cfg op bs = if op.toNat = 0x0A then (if (bs.headD 0).toNat / 64 = 1 then 7 else 6)
      else [4, 3, 3, 4, 3, 1, 1, 3, 4, 4, 0, 3, 4, 2, 3, 3, 2, 1, 6, 3, 4, 4, 4, 4, 6, 3, 6].getD op.toNat 1 := by
    rw [tableLength, condJmpLength, hreset]
    by_cases hop : op.toNat = 0x0C
    · simp [hop]
    · rw [if_neg hop]
  rw [(decode_reads h).length, decodedLength, htable, shortLength]

end Sys2Proof
end

/-! # Fetching and faults (30_encoding R94, 60_exceptions R250 to R258) -/

section
/-! SUPPORT. Eight bytes are always an instruction, so a fetch fails only where the Code Store ends. -/

namespace Sys2Proof

variable {cfg : Config} {op : Byte} {bs : List Byte}

/-- The first seven of seven or more bytes. -/
theorem exists_seven_bytes (h : 7 ≤ bs.length) :
    ∃ a b c d e f g tail, bs = a :: b :: c :: d :: e :: f :: g :: tail := by
  match bs, h with
  | a :: b :: c :: d :: e :: f :: g :: tail, _ => exact ⟨a, b, c, d, e, f, g, tail, rfl⟩

theorem mode_size_le (m : Mode) : m.size ≤ 2 := by
  cases m <;> decide

theorem zoomMode_size_le (op : Byte) : (zoomMode op).size ≤ 1 := by
  rw [zoomMode_size]
  split <;> decide

theorem formCJ_of_length (h : 7 ≤ bs.length) : ∃ r, formCJ bs = some r := by
  obtain ⟨m, r, c, d, e, f, g, tail, rfl⟩ := exists_seven_bytes h
  have hsize := mode_size_le (condMode m)
  obtain ⟨right, rest, htake, hlen⟩ := takeOperand_of_length (m := condMode m) (bs := c :: d :: e :: f :: g :: tail)
    (by simp only [List.length_cons]; omega)
  obtain ⟨hi, rest, rfl⟩ := List.exists_cons_of_length_pos (l := rest) (by simp only [List.length_cons] at hlen; omega)
  obtain ⟨lo, rest, rfl⟩ := List.exists_cons_of_length_pos (l := rest) (by simp only [List.length_cons] at hlen; omega)
  exact ⟨_, formCJ_eq_some.2 ⟨m, r, _, right, hi, lo, rfl, htake, rfl⟩⟩

theorem formPS_of_length (op : Byte) (h : 7 ≤ bs.length) : ∃ r, formPS op bs = some r := by
  obtain ⟨hi, lo, c, d, e, f, g, tail, rfl⟩ := exists_seven_bytes h
  have hxs := mode_size_le (xMode op)
  have hys := mode_size_le (yMode op)
  have hzs := zoomMode_size_le op
  have hlen : 5 ≤ (c :: d :: e :: f :: g :: tail).length := by simp
  obtain ⟨x, afterX, hx, hlenX⟩ := takeOperand_of_length (m := xMode op) (bs := c :: d :: e :: f :: g :: tail)
    (by omega)
  obtain ⟨y, afterY, hy, hlenY⟩ := takeOperand_of_length (m := yMode op) (bs := afterX) (by omega)
  obtain ⟨z, rest, hz, -⟩ := takeOperand_of_length (m := zoomMode op) (bs := afterY) (by omega)
  exact ⟨_, formPS_eq_some.2 ⟨hi, lo, _, x, afterX, y, afterY, z, rfl, hx, hy, hz, rfl⟩⟩

theorem decodeTable_of_length (h : 7 ≤ bs.length) : ∃ r, decodeTable cfg op bs = some r := by
  unfold decodeTable
  split
  case h_11 => exact formCJ_of_length h
  all_goals obtain ⟨a, b, c, d, e, f, g, tail, rfl⟩ := exists_seven_bytes h
  case h_13 =>
    by_cases homits : omitsMode cfg a b = true
    · exact ⟨_, if_pos homits⟩
    · exact ⟨_, if_neg homits⟩
  all_goals exact ⟨_, rfl⟩

/-- As many bytes as the longest instruction has always decode (30_encoding R90). -/
theorem decode_of_length (h : 8 ≤ bs.length) : ∃ r, decode cfg bs = .ok r := by
  obtain ⟨op, bs, rfl⟩ := List.exists_cons_of_length_pos (Nat.lt_of_lt_of_le (by decide) h)
  have h7 : 7 ≤ bs.length := Nat.le_of_succ_le_succ h
  simp only [decode_cons_eq_ok_iff]
  rcases opcode_tier op with hlong | hshort | htable
  · rw [decodeAfter_of_long hlong]
    obtain ⟨a, b, c, d, e, f, g, tail, rfl⟩ := exists_seven_bytes h7
    exact ⟨_, rfl⟩
  · rw [decodeAfter_of_short hshort]
    exact formPS_of_length op h7
  · rw [decodeAfter_of_table htable]
    exact decodeTable_of_length h7

end Sys2Proof

namespace Sys2Proof.Machine

/-- The offset of the fetch that fails (60_exceptions R252): the cursor or `CODE_LEN`, whichever is beyond. -/
theorem fetch_error_toNat {s : State} {a : Word} (h : s.fetch = .error a) :
    a.toNat = max s.pc.toNat s.code.len.toNat := by
  obtain ⟨htruncated, rfl⟩ := fetch_error h
  have hshort : s.codeWindow.length < 8 := by
    by_contra hlong
    obtain ⟨r, hr⟩ := decode_of_length (cfg := s.config) (Nat.le_of_not_lt hlong)
    rw [hr] at htruncated
    cases htruncated
  have hlen : s.codeWindow.length = min 8 (s.code.len.toNat - s.pc.toNat) := CodeStore.window_length ..
  have hpc := s.pc.isLt
  have hcode := s.code.len.isLt
  rw [BitVec.toNat_add, BitVec.toNat_ofNat]
  omega

/-- A cursor at or beyond `CODE_LEN` fetches nothing. -/
theorem codeWindow_of_beyond {s : State} (h : s.code.len.toNat ≤ s.pc.toNat) : s.codeWindow = [] := by
  apply List.eq_nil_of_length_eq_zero
  rw [State.codeWindow, CodeStore.window_length]
  omega

/-- The opcode byte a fetch decoded stands at the cursor. -/
theorem read_of_codeWindow {s : State} {op : Byte} {bs : List Byte} (h : s.codeWindow = op :: bs) :
    s.code.read s.pc.toNat = some op := by
  have hget : s.codeWindow[0]? = s.code.read (s.pc.toNat + 0) := CodeStore.window_get _ _ _ _ (by decide)
  rw [h] at hget
  exact hget.symm

/-- A frame that lets more parts change. -/
theorem KeepsAllBut.mono {ps qs : List Part} {s t : State} (h : KeepsAllBut ps s t) (hsub : ps ⊆ qs) :
    KeepsAllBut qs s t :=
  fun p hp => h p fun hmem => hp (hsub hmem)

theorem raise_keeps (s : State) (cause : FaultCause) : KeepsAllBut [.fault, .status, .phase] s (s.raise cause) := by
  intro p hp
  cases p <;> simp [Keeps] at hp ⊢

end Sys2Proof.Machine
end

section
/-! The statements about fetching and about taking a fault. -/

namespace Sys2Proof.Machine

/-- Settles O7: the fetch answers what the window decodes to, and the window is the Code Store's bytes. -/
theorem stepRunsTheDecodedInstruction : Obligations.StepRunsTheDecodedInstruction := by
  unfold Obligations.StepRunsTheDecodedInstruction
  intro s i rest hready hdecode
  exact ⟨step_of_fetch hready (fetch_of_decode hdecode), tookInput_keeps s, tookInput_host s,
    fun k hk => CodeStore.window_get _ _ _ _ hk⟩

/-- Settles O8: the window of a cursor beyond the code is empty; a window that does not decode is shorter than 8 bytes,
so it ends at `CODE_LEN` (`fetch_error_toNat`). -/
theorem fetchBeyondTheCodeTakesBounds : Obligations.FetchBeyondTheCodeTakesBounds := by
  unfold Obligations.FetchBeyondTheCodeTakesBounds
  refine ⟨fun s hready hbeyond => ?opcode, fun s hready htruncated => ?operand⟩
  case opcode =>
    have hwindow := codeWindow_of_beyond hbeyond
    have hfetch : s.fetch = .error s.pc := by
      have htruncated : decode s.config s.codeWindow = .error .truncated := by rw [hwindow]; rfl
      have := fetch_of_truncated htruncated
      rwa [hwindow, List.length_nil, BitVec.add_zero] at this
    exact step_of_fetch_error hready hfetch
  case operand =>
    have hfetch := fetch_of_truncated htruncated
    exact ⟨_, step_of_fetch_error hready hfetch, fetch_error_toNat hfetch⟩

/-- Settles O9: the record, `status` and `phase` are the fields `raise` writes; a byte's info is the byte extended. -/
theorem raiseRecordsAndKeepsTheRest : Obligations.RaiseRecordsAndKeepsTheRest := by
  have extended (b : Byte) : (b.setWidth 16).toNat = b.toNat := by
    have := b.isLt
    rw [BitVec.toNat_setWidth]
    omega
  unfold Obligations.RaiseRecordsAndKeepsTheRest
  exact ⟨fun s cause => ⟨rfl, rfl, rfl, raise_keeps s cause⟩, fun _ _ _ _ => rfl, fun op => ⟨_, rfl, extended op⟩,
    fun _ => rfl, fun _ => rfl, rfl, fun c => ⟨_, rfl, extended c⟩⟩

end Sys2Proof.Machine
end

section
/-! SUPPORT. The cause of a fault, read off the state that took it, and the steps that leave the phase unfaulted. -/

namespace Sys2Proof.Machine

variable {s t : State}

/-- A fault an instruction raises has the cause the state shows (60_exceptions R251, R253, R254, R256). -/
theorem Raises.justified {i : Instr} {cause : FaultCause} (h : Raises i s cause) (hfetch : s.fetch = .ok i) :
    cause.justified s := by
  rcases h with ⟨op, rfl, rfl⟩ | ⟨target, rfl, rfl, hsp⟩ | ⟨rfl, rfl, hsp⟩ | ⟨c, o, rfl, rfl, hc⟩
  · obtain ⟨rest, hdecode⟩ := fetch_ok hfetch
    cases hwindow : s.codeWindow with
    | nil => rw [hwindow] at hdecode; cases hdecode
    | cons op' bs =>
      rw [hwindow] at hdecode
      obtain ⟨hrange, rfl, -⟩ := decode_eq_illegal_iff.1 hdecode
      exact ⟨(isIllegalOp_iff op).2 hrange, read_of_codeWindow hwindow⟩
  · exact hsp
  · exact hsp
  · exact hc

/-- A fetch that fails has its cause too (60_exceptions R252). -/
theorem bounds_justified {a : Word} (h : s.fetch = .error a) : (FaultCause.bounds a).justified s := by
  have ha := fetch_error_toNat h
  exact ⟨by omega, by omega⟩

/-- What a ready step can do: take a fault the state shows the cause of, or go on without touching the fault's fields. -/
theorem ready_step_cases (hready : s.ready) (h : step s = .next t) :
    (∃ cause, t = s.tookInput.raise cause ∧ cause.justified s) ∨
    (t.fault = s.fault ∧ t.status = s.status ∧ t.cur = s.cur ∧ t.code = s.code ∧
      (t.phase = .exec ∨ (t.phase = .waitFlip ∧ t.halted = false))) := by
  cases hfetch : s.fetch with
  | error a =>
    rw [step_of_fetch_error hready hfetch] at h
    cases h
    exact .inl ⟨_, rfl, bounds_justified hfetch⟩
  | ok i =>
    rw [step_of_fetch hready hfetch] at h
    obtain ⟨hphase, hhalted, -, -⟩ := hready
    rcases exec_next h with ⟨cause, rfl, hraises⟩ | ⟨hfault, hstatus, hcur, hcode, -, -, -, hnext⟩
    · exact .inl ⟨cause, rfl, Raises.justified (s := s) hraises hfetch⟩
    · refine .inr ⟨hfault, hstatus, hcur, hcode, hnext.imp (fun hp => hp.trans hphase) ?_⟩
      exact fun ⟨hwait, hsame⟩ => ⟨hwait, hsame.trans hhalted⟩

/-- The phases a command leaves: `RESET` goes to `IDLE`, `RUN` and `FRAME` to `SELECT`, the others stay. -/
theorem perform_phase {c : HostCommand} (h : s.perform c = .next t) :
    t.phase = .idle ∨ t.phase = .select ∨ t.phase = s.phase := by
  cases c with
  | reset => cases h; exact .inl rfl
  | run => cases h; exact .inr (.inl rfl)
  | frame => cases h; exact .inr (.inl rfl)
  | codeInstall bytes => obtain ⟨-, rfl⟩ := installCode_next h; exact .inr (.inr rfl)
  | _ => cases h; exact .inr (.inr rfl)

/-- The phases a `SELECT` step leaves (40_scheduler R135). -/
theorem selectStep_phase (s : State) (quit : Bool) :
    (s.selectStep quit).phase = .idle ∨ (s.selectStep quit).phase = .exec ∨ (s.selectStep quit).phase = s.phase := by
  rcases selectStep_cases s quit with ⟨-, h⟩ | ⟨_, ⟨-, h⟩ | ⟨-, -, h⟩ | ⟨-, -, h⟩⟩ <;> rw [h]
  · exact .inl rfl
  · exact .inl rfl
  · exact .inr (.inl rfl)
  · exact .inr (.inr rfl)

/-- The phases a waiting step leaves (45_collaborator_ops R235). -/
theorem waitStep_phase (s : State) (flipDone : Bool) :
    (s.waitStep flipDone).phase = if flipDone = true then .exec else s.phase := by
  cases flipDone <;> rfl

/-- Only a ready step enters `FAULTED`. -/
theorem ready_of_enters_faulted (h : step s = .next t) (hs : s.phase ≠ .faulted) (ht : t.phase = .faulted) :
    s.ready := by
  rcases step_cases h with ⟨c, -, hperform⟩ | ⟨hnone, ⟨hp, rfl⟩ | ⟨hp, rfl⟩ | ⟨hp, rfl⟩ | ⟨hp, rfl⟩ |
    ⟨-, -, hend⟩ | ⟨-, -, -, habort⟩ | ⟨hphase, hhalted, hquit, -⟩⟩
  · rcases perform_phase hperform with hp | hp | hp <;> rw [hp] at ht
    · cases ht
    · cases ht
    · exact absurd ht hs
  · exact absurd ht hs
  · exact absurd ht hs
  · rcases selectStep_phase s.tookInput s.input.quit with hp' | hp' | hp' <;> rw [hp'] at ht
    · cases ht
    · cases ht
    · exact absurd ht hs
  · rw [waitStep_phase] at ht
    split at ht
    · cases ht
    · exact absurd ht hs
  · obtain ⟨_, rfl⟩ := endTurn_next hend
    cases ht
  · obtain ⟨_, rfl⟩ := abortTurn_next habort
    cases ht
  · exact ⟨hphase, hhalted, hnone, hquit⟩

/-! ### `FAULTED` (60_exceptions R258) -/

/-- The commands taken in `FAULTED`. -/
theorem acceptedIn_faulted_iff (c : HostCommand) :
    c.acceptedIn .faulted = true ↔ c = .reset ∨ (∃ r, c = .regRead r) ∨ c = .stateRead := by
  cases c <;> simp [HostCommand.acceptedIn]

theorem reply_keeps (s : State) (r : HostReply) : KeepsAllBut [.replies] s (s.reply r) := by
  intro p hp
  cases p <;> simp [Keeps] at hp ⊢

theorem step_of_idle (hphase : s.phase = .idle) (hnone : s.acceptedCommand = none) : step s = .next s.tookInput := by
  rw [step_of_none hnone]
  simp [State.coreStep, hphase]

theorem step_of_faulted (hphase : s.phase = .faulted) (hnone : s.acceptedCommand = none) :
    step s = .next s.tookInput := by
  rw [step_of_none hnone]
  simp [State.coreStep, hphase]

/-- A step in `FAULTED` takes the input, answers a read, or is `RESET`. -/
theorem faulted_step_cases (hphase : s.phase = .faulted) :
    (s.acceptedCommand = none ∧ step s = .next s.tookInput) ∨
    (∃ c r, s.acceptedCommand = some c ∧ c ≠ .reset ∧ step s = .next (s.tookInput.reply r)) ∨
    (s.acceptedCommand = some .reset ∧ step s = .next s.tookInput.resetCore) := by
  cases hc : s.acceptedCommand with
  | none => exact .inl ⟨rfl, step_of_faulted hphase hc⟩
  | some c =>
    have haccepted := (acceptedCommand_some hc).2
    rw [hphase, acceptedIn_faulted_iff] at haccepted
    rcases haccepted with rfl | ⟨r, rfl⟩ | rfl
    · exact .inr (.inr ⟨rfl, step_of_accepted hc⟩)
    · exact .inr (.inl ⟨_, _, rfl, nofun, step_of_accepted hc⟩)
    · exact .inr (.inl ⟨_, _, rfl, nofun, step_of_accepted hc⟩)

end Sys2Proof.Machine
end

section
/-! The statements about entering and leaving `FAULTED`. -/

namespace Sys2Proof.Machine

/-- Settles O10: only a ready step enters `FAULTED`, and of what a ready step does only a raise does. -/
theorem everyFaultHasItsCause : Obligations.EveryFaultHasItsCause := by
  unfold Obligations.EveryFaultHasItsCause
  intro s t h hs ht
  have hready := ready_of_enters_faulted h hs ht
  refine ⟨hready, ?_⟩
  rcases ready_step_cases hready h with hraise | ⟨-, -, -, -, hp | ⟨hp, -⟩⟩
  · exact hraise
  · rw [hp] at ht; cases ht
  · rw [hp] at ht; cases ht

/-- Settles O11: a step in `FAULTED` takes the input, answers a read, or is `RESET` (`faulted_step_cases`). -/
theorem faultedIsLeftOnlyByReset : Obligations.FaultedIsLeftOnlyByReset := by
  unfold Obligations.FaultedIsLeftOnlyByReset
  refine ⟨acceptedIn_faulted_iff, fun s hphase => ?_⟩
  rcases faulted_step_cases hphase with ⟨hnone, hstep⟩ | ⟨c, r, hc, hreset, hstep⟩ | ⟨hreset, hstep⟩
  · exact ⟨_, hstep, .inr ⟨by simp [hnone], hphase, rfl, (tookInput_keeps s).mono (by simp)⟩⟩
  · exact ⟨_, hstep, .inr ⟨by simp [hc, hreset], hphase, rfl,
      ((tookInput_keeps s).trans (reply_keeps s.tookInput r)).mono (by simp)⟩⟩
  · exact ⟨_, hstep, .inl ⟨hreset, rfl, rfl⟩⟩

end Sys2Proof.Machine
end

/-! # The invariant of the machine (10_state, 60_exceptions R255) -/

section
/-! SUPPORT. Two ways a state has the invariant: nothing it speaks of has changed, or the core is not in `FAULTED` and
shows nothing of a fault. -/

namespace Sys2Proof.Machine

variable {s t : State}

/-- The invariant of a state outside `FAULTED`. -/
structure Running (s : State) : Prop where
  memory : s.code.wf = true
  phase : s.phase ≠ .faulted
  status : s.status ≠ .fault
  fault : s.fault = none
  turn : s.phase = .exec ∨ s.phase = .waitFlip → s.cur.val < 64
  waiting : s.phase = .waitFlip → s.halted = false

theorem Running.inv (h : Running s) : s.Inv where
  memory := h.memory
  turn := h.turn
  waiting := h.waiting
  status := iff_of_false h.phase h.status
  faulted := iff_of_false h.phase (by simp [h.fault])
  record := fun f hf => by rw [h.fault] at hf; cases hf

theorem State.Inv.running (h : s.Inv) (hphase : s.phase ≠ .faulted) : Running s where
  memory := h.memory
  phase := hphase
  status := fun hstatus => hphase (h.status.2 hstatus)
  fault := by
    have hnone : ¬ s.fault.isSome = true := fun hsome => hphase (h.faulted.2 hsome)
    simpa using hnone
  turn := h.turn
  waiting := h.waiting

/-- The invariant does not see the host's input. -/
theorem State.Inv.tookInput (h : s.Inv) : s.tookInput.Inv :=
  ⟨h.memory, h.turn, h.waiting, h.status, h.faulted, h.record⟩

/-- The invariant does not see the answers. -/
theorem State.Inv.reply (h : s.Inv) (r : HostReply) : (s.reply r).Inv :=
  ⟨h.memory, h.turn, h.waiting, h.status, h.faulted, h.record⟩

/-- A fault taken in a turn leaves the record the invariant asks for (60_exceptions R255). -/
theorem State.Inv.raise (h : s.Inv) (hphase : s.phase = .exec) {cause : FaultCause} (hcause : cause.justified s) :
    (s.raise cause).Inv where
  memory := h.memory
  turn := by rintro (hp | hp) <;> cases hp
  waiting := nofun
  status := iff_of_true rfl rfl
  faulted := iff_of_true rfl rfl
  record := by
    rintro f hf
    cases hf
    exact ⟨rfl, h.turn (.inl hphase), rfl, hcause⟩

theorem reset_running : Running State.reset := ⟨CodeStore.empty_wf, nofun, nofun, rfl, nofun, nofun⟩

/-- `RESET` leaves the core as at power-on, with the Code Store it had. -/
theorem resetCore_running (h : s.code.wf = true) : Running s.resetCore := ⟨h, nofun, nofun, rfl, nofun, nofun⟩

/-- A core that is not in a turn needs no channel. -/
theorem Running.inv_of_no_turn (h : Running s) (hcode : t.code.wf = true)
    (hphase : t.phase = .idle ∨ t.phase = .select) (hstatus : t.status ≠ .fault) (hfault : t.fault = s.fault) : t.Inv :=
  Running.inv
    { memory := hcode
      phase := by rcases hphase with hp | hp <;> rw [hp] <;> nofun
      status := hstatus
      fault := hfault.trans h.fault
      turn := by rcases hphase with hp | hp <;> rw [hp] <;> nofun
      waiting := by rcases hphase with hp | hp <;> rw [hp] <;> nofun }

end Sys2Proof.Machine
end

section
/-! SUPPORT. What keeps the invariant: an accepted command, the core's own step in each phase, an instruction. -/

namespace Sys2Proof.Machine

variable {s t : State}

/-- An accepted command keeps the invariant; in `FAULTED` it is a read or `RESET`. -/
theorem perform_inv {c : HostCommand} (hinv : s.Inv) (haccepted : c.acceptedIn s.phase = true)
    (h : s.perform c = .next t) : t.Inv := by
  have idle (hp : decide (s.phase = .idle) = true) : s.phase = .idle := of_decide_eq_true hp
  have running (hp : s.phase = .idle) : Running s := hinv.running (by rw [hp]; nofun)
  cases c with
  | reset => cases h; exact (resetCore_running hinv.memory).inv
  | regRead r => cases h; exact hinv.reply _
  | stateRead => cases h; exact hinv.reply _
  | codeInstall bytes =>
    obtain ⟨hlen, rfl⟩ := installCode_next h
    have hp := idle haccepted
    exact (running hp).inv_of_no_turn (CodeStore.ofBytes_wf hlen) (.inl hp) (running hp).status rfl
  | run | frame =>
    cases h
    have hrun := running (idle haccepted)
    exact hrun.inv_of_no_turn hrun.memory (.inr rfl) hrun.status rfl
  | restartAt | setup | regWrite | stateLoad =>
    cases h
    have hp := idle haccepted
    exact (running hp).inv_of_no_turn hinv.memory (.inl hp) (running hp).status rfl

/-- Choosing the next turn: a turn starts only with a channel of the table (40_scheduler R135). -/
theorem selectStep_inv (hinv : s.Inv) (hphase : s.phase = .select) (quit : Bool) : (s.selectStep quit).Inv := by
  have hrun : Running s := hinv.running (by rw [hphase]; nofun)
  rcases selectStep_cases s quit with ⟨-, h⟩ | ⟨hcur, ⟨-, h⟩ | ⟨-, -, h⟩ | ⟨-, -, h⟩⟩ <;> rw [h]
  · exact hrun.inv_of_no_turn hrun.memory (.inl rfl) nofun rfl
  · exact hrun.inv_of_no_turn hrun.memory (.inl rfl) nofun rfl
  · exact Running.inv ⟨hrun.memory, nofun, hrun.status, hrun.fault, fun _ => hcur, nofun⟩
  · exact hrun.inv_of_no_turn hrun.memory (.inr hphase) hrun.status rfl

theorem waitStep_inv (hinv : s.Inv) (hphase : s.phase = .waitFlip) (flipDone : Bool) : (s.waitStep flipDone).Inv := by
  have hrun : Running s := hinv.running (by rw [hphase]; nofun)
  cases flipDone with
  | false => exact hinv
  | true => exact Running.inv ⟨hrun.memory, nofun, hrun.status, hrun.fault, fun _ => hinv.turn (.inr hphase), nofun⟩

theorem endTurn_inv (hinv : s.Inv) (hphase : s.phase = .exec) (h : s.endTurn = .next t) : t.Inv := by
  have hrun : Running s := hinv.running (by rw [hphase]; nofun)
  obtain ⟨_, rfl⟩ := endTurn_next h
  exact hrun.inv_of_no_turn hrun.memory (.inr rfl) hrun.status rfl

theorem abortTurn_inv (hinv : s.Inv) (hphase : s.phase = .exec) (h : s.abortTurn = .next t) : t.Inv := by
  have hrun : Running s := hinv.running (by rw [hphase]; nofun)
  obtain ⟨_, rfl⟩ := abortTurn_next h
  exact hrun.inv_of_no_turn hrun.memory (.inl rfl) nofun rfl

/-- An instruction step takes a fault with its cause, or goes on with the turn. -/
theorem ready_step_inv (hinv : s.Inv) (hready : s.ready) (h : step s = .next t) : t.Inv := by
  have hphase : s.phase = .exec := hready.1
  have hrun : Running s := hinv.running (by rw [hphase]; nofun)
  rcases ready_step_cases hready h with ⟨cause, rfl, hcause⟩ | ⟨hfault, hstatus, hcur, hcode, hnext⟩
  · exact hinv.tookInput.raise (s := s.tookInput) hphase hcause
  · refine Running.inv ⟨by rw [hcode]; exact hrun.memory, ?_, by rw [hstatus]; exact hrun.status,
      hfault.trans hrun.fault, fun _ => by rw [hcur]; exact hinv.turn (.inl hphase), ?_⟩
    · rcases hnext with hp | ⟨hp, -⟩ <;> rw [hp] <;> nofun
    · rcases hnext with hp | ⟨-, hhalted⟩
      · rw [hp]; nofun
      · exact fun _ => hhalted

theorem abortTurn_of_lt (hc : s.cur.val < 64) :
    s.abortTurn = .next ((s.persist ⟨s.cur.val, hc⟩).endRun .aborted) := dif_pos hc

/-- Accepting a command has a next state, but for a Code Store that is too long (93_implementation_defined U17). -/
theorem perform_total (s : State) (c : HostCommand) :
    (∃ t, s.perform c = .next t) ∨
    (∃ bytes, c = .codeInstall bytes ∧ 0xFFFF < bytes.length ∧ s.perform c = .refused .codeStoreTooLong) := by
  cases c with
  | codeInstall bytes =>
    by_cases hlen : bytes.length ≤ 0xFFFF
    · exact .inl ⟨_, if_pos hlen⟩
    · exact .inr ⟨bytes, rfl, by omega, if_neg hlen⟩
  | _ => exact .inl ⟨_, rfl⟩

/-- The core's own step has a next state wherever a turn has its channel. -/
theorem coreStep_total (hturn : s.phase = .exec → s.cur.val < 64) (quit flipDone : Bool) :
    ∃ t, s.coreStep quit flipDone = .next t := by
  unfold State.coreStep
  split
  · exact ⟨_, rfl⟩
  · exact ⟨_, rfl⟩
  · next hphase =>
    unfold State.execStep
    split_ifs
    · exact ⟨_, endTurn_of_lt (hturn hphase)⟩
    · exact ⟨_, abortTurn_of_lt (hturn hphase)⟩
    · unfold State.instrStep
      split
      · exact exec_total ..
      · exact ⟨_, rfl⟩
  · exact ⟨_, rfl⟩
  · exact ⟨_, rfl⟩

end Sys2Proof.Machine
end

section
/-! The statements about the invariant. -/

namespace Sys2Proof.Machine

/-- Settles O57: power-on shows no fault and is in no turn. -/
theorem resetHasTheInvariant : Obligations.ResetHasTheInvariant := by
  unfold Obligations.ResetHasTheInvariant
  exact reset_running.inv

/-- Settles O58, one lemma for each thing a step can do (`step_cases`). -/
theorem everyStepKeepsTheInvariant : Obligations.EveryStepKeepsTheInvariant := by
  unfold Obligations.EveryStepKeepsTheInvariant
  intro s t hinv hstep
  have htook := hinv.tookInput
  rcases step_cases hstep with ⟨c, hc, hperform⟩ | ⟨hnone, ⟨-, rfl⟩ | ⟨-, rfl⟩ | ⟨hphase, rfl⟩ | ⟨hphase, rfl⟩ |
    ⟨hphase, -, hend⟩ | ⟨hphase, -, -, habort⟩ | ⟨hphase, hhalted, hquit, -⟩⟩
  · exact perform_inv htook (acceptedCommand_some hc).2 hperform
  · exact htook
  · exact htook
  · exact selectStep_inv htook hphase _
  · exact waitStep_inv htook hphase _
  · exact endTurn_inv htook hphase hend
  · exact abortTurn_inv htook hphase habort
  · exact ready_step_inv hinv ⟨hphase, hhalted, hnone, hquit⟩ hstep

/-- Settles O59: commands by `perform_total`, the core's own step by `coreStep_total`, whose channel the invariant
gives. -/
theorem noStepStopsFromTheInvariant : Obligations.NoStepStopsFromTheInvariant := by
  unfold Obligations.NoStepStopsFromTheInvariant
  intro s hinv
  cases hc : s.acceptedCommand with
  | none =>
    rw [step_of_none hc]
    exact .inl (coreStep_total (s := s.tookInput) (fun hphase => hinv.turn (.inl hphase)) _ _)
  | some c =>
    rw [step_of_accepted hc]
    rcases perform_total s.tookInput c with hnext | ⟨bytes, rfl, hlen, hrefused⟩
    · exact .inl hnext
    · exact .inr ⟨bytes, rfl, hlen, hrefused⟩

end Sys2Proof.Machine
end

/-! # The register instructions (42_register_ops R185 to R189) -/

section
/-! SUPPORT. The shifts on numbers (00_scope R10). -/

namespace Sys2Proof.Machine

/-- Bits shifted past the top are lost, whatever the count (42_register_ops R188). -/
theorem shiftLeft16_toNat (v n : Word) : (shiftLeft16 v n).toNat = v.toNat * 2 ^ n.toNat % 65536 := by
  unfold shiftLeft16
  split
  · rw [BitVec.toNat_shiftLeft, Nat.shiftLeft_eq]
  · next hn =>
    have hdvd : 65536 ∣ v.toNat * 2 ^ n.toNat := (Nat.pow_dvd_pow 2 (Nat.le_of_not_lt hn)).mul_left v.toNat
    exact (Nat.mod_eq_zero_of_dvd hdvd).symm

theorem shiftRight16_toNat (v n : Word) : (shiftRight16 v n).toNat = v.toNat / 2 ^ n.toNat := by
  unfold shiftRight16
  split
  · rw [BitVec.toNat_ushiftRight, Nat.shiftRight_eq_div_pow]
  · next hn =>
    have hlt : v.toNat < 2 ^ n.toNat := v.isLt.trans_le (Nat.pow_le_pow_right (by decide) (Nat.le_of_not_lt hn))
    exact (Nat.div_eq_of_lt hlt).symm

theorem shiftLeft16_of_le {n : Word} (h : 16 ≤ n.toNat) (v : Word) : shiftLeft16 v n = 0 := if_neg (Nat.not_lt.2 h)

theorem shiftRight16_of_le {n : Word} (h : 16 ≤ n.toNat) (v : Word) : shiftRight16 v n = 0 := if_neg (Nat.not_lt.2 h)

end Sys2Proof.Machine
end

section
/-! The statements of 42_register_ops R185 to R189. -/

namespace Sys2Proof.Machine

/-- Settles O16: both registers are read in the state before (42_register_ops R180). -/
theorem subWrapsTheExactDifference : Obligations.SubWrapsTheExactDifference := by
  unfold Obligations.SubWrapsTheExactDifference
  intro d e s
  refine ⟨Spells.of_decode rfl fun _ _ _ => rfl, ?effect⟩
  obtain ⟨t, hexec, hreg, hrest⟩ := exec_effect_of_setReg (i := .sub d e) (s := s) rfl
  have hint : t.int d = (wrap16 (s.int d - s.int e)).toInt := congrArg BitVec.toInt hreg
  exact ⟨t, hexec, hint.trans (wrap16_toInt _), hrest⟩

/-- Settles O17: the bitwise operations commute with the number of a pattern. -/
theorem andOrActOnThePatterns : Obligations.AndOrActOnThePatterns := by
  unfold Obligations.AndOrActOnThePatterns
  intro r h l s
  refine ⟨Spells.of_decode rfl fun _ _ _ => rfl, Spells.of_decode rfl fun _ _ _ => rfl, ?and, ?or⟩
  case and =>
    obtain ⟨t, hexec, hreg, hrest⟩ := exec_effect_of_setReg (i := .and r (wordOf h l)) (s := s) rfl
    exact ⟨t, hexec, by rw [hreg, BitVec.toNat_and, wordOf_toNat], hrest⟩
  case or =>
    obtain ⟨t, hexec, hreg, hrest⟩ := exec_effect_of_setReg (i := .or r (wordOf h l)) (s := s) rfl
    exact ⟨t, hexec, by rw [hreg, BitVec.toNat_or, wordOf_toNat], hrest⟩

/-- Settles O18, by the shift on numbers. -/
theorem shlMultipliesThePattern : Obligations.ShlMultipliesThePattern := by
  unfold Obligations.ShlMultipliesThePattern
  intro r h l s
  refine ⟨Spells.of_decode rfl fun _ _ _ => rfl, ?effect⟩
  obtain ⟨t, hexec, hreg, hrest⟩ := exec_effect_of_setReg (i := .shl r (wordOf h l)) (s := s) rfl
  rw [← wordOf_toNat]
  exact ⟨t, hexec, by rw [hreg, shiftLeft16_toNat], fun hcount => by rw [hreg, shiftLeft16_of_le hcount], hrest⟩

/-- Settles O19, by the shift on numbers. -/
theorem shrDividesThePattern : Obligations.ShrDividesThePattern := by
  unfold Obligations.ShrDividesThePattern
  intro r h l s
  refine ⟨Spells.of_decode rfl fun _ _ _ => rfl, ?effect⟩
  obtain ⟨t, hexec, hreg, hrest⟩ := exec_effect_of_setReg (i := .shr r (wordOf h l)) (s := s) rfl
  rw [← wordOf_toNat]
  exact ⟨t, hexec, by rw [hreg, shiftRight16_toNat], fun hcount => by rw [hreg, shiftRight16_of_le hcount], hrest⟩

end Sys2Proof.Machine
end

/-! # The control transfers (43_control_flow R200 to R205) -/

section
/-! SUPPORT. Frames of the cursor and the stack, and an equation for each case of `call`, `ret`, `jnz`, `condJmp`. -/

namespace Sys2Proof.Machine

variable {s : State}

/-! ### Frames -/

theorem jump_keeps (s : State) (target : Word) : KeepsAllBut [.pc] s (s.jump target) := by
  intro p hp
  cases p <;> simp [Keeps] at hp ⊢

theorem pushReturn_keeps (s : State) : KeepsAllBut [.stk, .sp] s s.pushReturn := by
  intro p hp
  cases p <;> simp [Keeps] at hp ⊢

theorem popReturn_keeps (s : State) : KeepsAllBut [.sp, .pc] s s.popReturn := by
  intro p hp
  cases p <;> simp [Keeps] at hp ⊢

/-! ### The call stack (43_control_flow R201, R202) -/

theorem exec_call_of_room (h : s.sp ≠ 255) (target : Word) :
    exec (.call target) s = .next ((s.after (.call target)).pushReturn.jump target) := if_neg h

theorem exec_call_of_full (h : s.sp = 255) (target : Word) :
    exec (.call target) s = .next (s.raise (.stackOverflow target)) := if_pos h

theorem exec_ret_of_held (h : s.sp ≠ 0) : exec .ret s = .next s.popReturn := if_neg h

theorem exec_ret_of_empty (h : s.sp = 0) : exec .ret s = .next (s.raise .stackUnderflow) := if_pos h

/-! ### `jnz` (43_control_flow R203) -/

/-- Wrapping the decrement of a register is the decrement of its pattern. -/
theorem wrap16_int_sub_one (s : State) (r : RegIx) : wrap16 (s.int r - 1) = s.reg r - 1 := by
  apply BitVec.eq_of_toInt_eq
  rw [wrap16_toInt, BitVec.toInt_sub]
  rfl

theorem int_eq_one_iff (s : State) (r : RegIx) : s.int r = 1 ↔ wrap16 (s.int r - 1) = 0 := by
  have hone : s.int r = 1 ↔ s.reg r = 1 := BitVec.toInt_inj (y := (1 : Word))
  rw [wrap16_int_sub_one, hone, sub_eq_zero]

/-- The state `jnz` leaves where it does not jump: the decrement written, the cursor past the instruction. -/
def State.decremented (s : State) (r : RegIx) (target : Word) : State :=
  (s.after (.jnz r target)).setReg r (wrap16 (s.int r - 1))

theorem decremented_keeps (s : State) (r : RegIx) (target : Word) :
    KeepsAllBut [.regs, .pc] s (s.decremented r target) :=
  (after_keeps s _).trans (setReg_keeps _ r _)

theorem exec_jnz (s : State) (r : RegIx) (target : Word) :
    exec (.jnz r target) s =
      .next (if s.int r = 1 then s.decremented r target else (s.decremented r target).jump target) := by
  by_cases h : s.int r = 1
  · rw [if_pos h]
    exact congrArg Host.Outcome.next (if_neg (not_not.2 ((int_eq_one_iff s r).1 h)))
  · rw [if_neg h]
    exact congrArg Host.Outcome.next (if_pos fun hzero => h ((int_eq_one_iff s r).2 hzero))

/-- The whole effect of one `jnz`. -/
theorem exec_jnz_effect (s : State) (r : RegIx) (target : Word) :
    ∃ t, exec (.jnz r target) s = .next t ∧ t.int r = Int.bmod (s.int r - 1) 65536 ∧
      (∀ q, q ≠ r → t.reg q = s.reg q) ∧ t.pc = (if s.int r = 1 then s.pc + 4 else target) ∧
      KeepsAllBut [.regs, .pc] s t := by
  have hframe := decremented_keeps s r target
  have hint : (s.decremented r target).int r = Int.bmod (s.int r - 1) 65536 := by
    simp [State.decremented, wrap16_toInt]
  have hreg (q : RegIx) (hq : q ≠ r) : (s.decremented r target).reg q = s.reg q := by
    simp [State.decremented, hq]
  by_cases h : s.int r = 1
  · rw [exec_jnz, if_pos h, if_pos h]
    exact ⟨_, rfl, hint, hreg, rfl, hframe⟩
  · rw [exec_jnz, if_neg h, if_neg h]
    exact ⟨_, rfl, hint, hreg, rfl, (hframe.trans (jump_keeps _ target)).mono (by simp)⟩

/-- One pass of a counting loop, with `m` passes to come (43_control_flow R203). -/
theorem exec_jnz_pass {m : Nat} {r : RegIx} (h : s.int r = m + 1) (target : Word) :
    ∃ t, exec (.jnz r target) s = .next t ∧ t.int r = m ∧
      t.pc = (if m = 0 then s.pc + 4 else target) ∧ KeepsAllBut [.regs, .pc] s t ∧
      ∀ q, q ≠ r → t.reg q = s.reg q := by
  obtain ⟨t, hexec, hint, hreg, hpc, hframe⟩ := exec_jnz_effect s r target
  have hlt : s.int r < 2 ^ 15 := BitVec.toInt_lt
  have hm : s.int r - 1 = m := by omega
  have hcount : Int.bmod (s.int r - 1) 65536 = m := by
    rw [hm]
    exact Int.bmod_eq_of_le (by omega) (by omega)
  have hlast : s.int r = 1 ↔ m = 0 := by omega
  exact ⟨t, hexec, hint.trans hcount, by rw [hpc]; simp only [hlast], hframe, hreg⟩

/-- Repeating once more. -/
theorem repeatExec_succ_of_next {i : Instr} {n : Nat} {s u : State} (h : repeatExec i n s = .next u) :
    repeatExec i (n + 1) s = exec i u := by
  induction n generalizing s with
  | zero =>
    cases h
    obtain ⟨t, ht⟩ := exec_total i u
    simp only [repeatExec, ht]
  | succ n ih =>
    obtain ⟨t, ht⟩ := exec_total i s
    simp only [repeatExec, ht] at h
    have hstep : repeatExec i (n + 1 + 1) s = repeatExec i (n + 1) t := by rw [repeatExec, ht]
    rw [hstep, ih h]

/-- `j` passes of a loop that counts from `n + 1`. -/
theorem repeatExec_jnz {n : Nat} {r : RegIx} (target : Word) (h : s.int r = n + 1) (j : Nat) (hj : j ≤ n) :
    ∃ u, repeatExec (.jnz r target) j s = .next u ∧ u.int r = n + 1 - j ∧
      u.pc = (if j = 0 then s.pc else target) ∧ KeepsAllBut [.regs, .pc] s u ∧ ∀ q, q ≠ r → u.reg q = s.reg q := by
  induction j with
  | zero => exact ⟨s, rfl, by simpa using h, rfl, fun p _ => by cases p <;> simp [Keeps], fun _ _ => rfl⟩
  | succ j ih =>
    obtain ⟨u, hrun, hint, -, hframe, hreg⟩ := ih (by omega)
    obtain ⟨t, hexec, hint', hpc, hframe', hreg'⟩ := exec_jnz_pass (m := n - j) (s := u) (r := r) (by omega) target
    refine ⟨t, (repeatExec_succ_of_next hrun).trans hexec, by omega, ?_, (hframe.trans hframe').mono (by simp),
      fun q hq => (hreg' q hq).trans (hreg q hq)⟩
    rw [hpc, if_neg (by omega), if_neg (by omega)]

/-! ### `condJmp` (43_control_flow R204, R205) -/

theorem zext16_toInt (b : Byte) : (zext16 b).toInt = b.toNat := by
  have hb := b.isLt
  rw [BitVec.toInt_eq_toNat_of_lt] <;> rw [zext16, BitVec.toNat_setWidth] <;> omega

/-- An operand's pattern stands for the integer its mode gives (30_encoding R98, R99). -/
theorem resolve_toInt (s : State) (o : Operand) : (s.resolve o).toInt = operandInt s o := by
  cases o with
  | imm8 b => exact zext16_toInt b
  | imm16 w => rfl
  | reg r => rfl
  | imm8p b =>
    have hb := b.isLt
    have hnat : (zext16 b + 256).toNat = b.toNat + 256 := by
      rw [zext16, BitVec.toNat_add, BitVec.toNat_setWidth]
      change (b.toNat % 65536 + 256) % 65536 = _
      omega
    change (zext16 b + 256).toInt = (b.toNat : Int) + 256
    rw [BitVec.toInt_eq_toNat_of_lt (by omega), hnat]
    rfl
  | none => rfl
  | none2 => rfl

/-- The whole effect of `condJmp`: the cursor only. -/
theorem exec_condJmp (c : Cmp) (r : RegIx) (right : Operand) (target : Word) (s : State) :
    ∃ t, exec (.condJmp c r right target) s = .next t ∧ KeepsAllBut [.pc] s t ∧
      t.pc = if compareTaken s.config c (s.int r) (operandInt s right) = true then target
        else s.pc + BitVec.ofNat 16 (5 + right.size) := by
  rw [← resolve_toInt]
  simp only [exec, execCondJmp]
  split
  · exact ⟨_, rfl, ((after_keeps s _).trans (jump_keeps _ target)).mono (by simp), rfl⟩
  · exact ⟨_, rfl, after_keeps s _, rfl⟩

end Sys2Proof.Machine
end

section
/-! The statements of 43_control_flow. -/

namespace Sys2Proof.Machine

/-- Settles O20: the cursor is written and nothing else (`jump_keeps`). -/
theorem jmpGoesToItsTarget : Obligations.JmpGoesToItsTarget := by
  unfold Obligations.JmpGoesToItsTarget
  intro h l s
  exact ⟨Spells.of_decode rfl fun _ _ _ => rfl, _, rfl, rfl, jump_keeps s _⟩

/-- Settles O21: the push is on the state whose cursor is past the `call`, so the slot holds that cursor. -/
theorem callPushesTheReturnOffset : Obligations.CallPushesTheReturnOffset := by
  unfold Obligations.CallPushesTheReturnOffset
  intro h l s
  refine ⟨Spells.of_decode rfl fun _ _ _ => rfl, fun hroom => ?pushed, fun hfull => exec_call_of_full hfull _⟩
  case pushed =>
    have hsp : (s.sp + 1).toNat = s.sp.toNat + 1 := by
      have hne : s.sp.toNat ≠ 255 := fun heq => hroom (BitVec.eq_of_toNat_eq heq)
      bv_omega
    exact ⟨_, exec_call_of_room hroom _, by simp; rfl, fun k hk => by simp [hk], hsp, rfl,
      (((after_keeps s _).trans (pushReturn_keeps _)).trans (jump_keeps _ _)).mono (by simp)⟩

/-- Settles O22: `popReturn` reads the slot below `sp` and writes no slot. -/
theorem retPopsTheReturnOffset : Obligations.RetPopsTheReturnOffset := by
  unfold Obligations.RetPopsTheReturnOffset
  refine ⟨Spells.of_decode rfl fun _ _ _ => rfl, fun s => ⟨fun hheld => ?popped, exec_ret_of_empty⟩⟩
  case popped =>
    have hsp : (s.sp - 1).toNat + 1 = s.sp.toNat := by bv_omega
    exact ⟨_, exec_ret_of_held hheld, hsp, rfl, popReturn_keeps s⟩

/-- Settles O23: the `call` leaves `sp + 1` and the offset after itself in the slot at the old `sp`, and lowering `sp`
by one names that slot again. -/
theorem callThenRetReturns : Obligations.CallThenRetReturns := by
  unfold Obligations.CallThenRetReturns
  intro target s hroom
  refine ⟨_, exec_call_of_room hroom target, fun v hsp hslot => ?_⟩
  have hspv : v.sp = s.sp + 1 := hsp
  have hback : v.sp - 1 = s.sp := by rw [hspv]; bv_omega
  have hheld : v.sp ≠ 0 := by bv_omega
  refine ⟨_, exec_ret_of_held hheld, ?_, hback, popReturn_keeps v⟩
  calc v.slot (v.sp - 1) = v.slot s.sp := by rw [hback]
    _ = s.pc + 3 := by rw [hslot]; simp; rfl

/-- Settles O24, by the effect of one `jnz`. -/
theorem jnzDecrementsAndJumps : Obligations.JnzDecrementsAndJumps := by
  unfold Obligations.JnzDecrementsAndJumps
  intro r h l s
  exact ⟨Spells.of_decode rfl fun _ _ _ => rfl, exec_jnz_effect s r (wordOf h l)⟩

/-- Settles O25: `n` passes that jump (`repeatExec_jnz`), then the one that does not. -/
theorem jnzCountsDownToZero : Obligations.JnzCountsDownToZero := by
  unfold Obligations.JnzCountsDownToZero
  intro n r target s h
  refine ⟨fun j hj => ?passes, ?last⟩
  case passes =>
    obtain ⟨u, hrun, hint, hpc, -, -⟩ := repeatExec_jnz target h j hj
    exact ⟨u, hrun, hint, hpc⟩
  case last =>
    obtain ⟨u, hrun, hint, hpc, hframe, hreg⟩ := repeatExec_jnz target h n le_rfl
    obtain ⟨t, hexec, hint', hpc', hframe', hreg'⟩ := exec_jnz_pass (m := 0) (s := u) (r := r) (by omega) target
    exact ⟨t, (repeatExec_succ_of_next hrun).trans hexec, hint', by rw [hpc', if_pos rfl, hpc],
      fun q hq => (hreg' q hq).trans (hreg q hq), (hframe.trans hframe').mono (by simp)⟩

/-- Settles O26: the bytes decode by `decode_condJmp`, whose fields are the mode byte's digits; the comparison is the
one `compareTaken` makes. -/
theorem condJmpComparesAndJumps : Obligations.CondJmpComparesAndJumps := by
  unfold Obligations.CondJmpComparesAndJumps
  intro m r h l c right s hmode hcmp
  rw [← condMode_eq] at hmode
  rw [← condCmp_eq] at hcmp
  subst hcmp
  have hsize : right.size = if m.toNat / 64 = 1 then 2 else 1 := by
    rw [← right.mode_size, hmode, condMode_size]
  refine ⟨Spells.of_decode ?length fun cfg rest _ => ?decode, ?effect⟩
  case length =>
    simp [Instr.length, Laws.EncodedLength.operand_bytes]
    omega
  case decode =>
    have := decode_condJmp (cfg := cfg) hmode r h l rest
    simpa using this
  case effect =>
    obtain ⟨t, hexec, hframe, hpc⟩ := exec_condJmp (condCmp m) r right (wordOf h l) s
    refine ⟨t, hexec, hframe, ?_⟩
    have hlen : (BitVec.ofNat 16 (5 + right.size) : Word) = if m.toNat / 64 = 1 then 7 else 6 := by
      rw [hsize]
      split_ifs <;> rfl
    rw [hpc, hlen]
    cases condCmp m <;> rfl

end Sys2Proof.Machine
end

/-! # The channel-control instructions (44_channel_ops R220 to R223) -/

section
/-! SUPPORT. Frames of the row updates, and the rows `setVec` and `resetScript` leave. -/

namespace Sys2Proof.Machine

theorem setChannel_keeps (s : State) (c : Fin 64) (ch : Channel) : KeepsAllBut [.channels] s (s.setChannel c ch) := by
  intro p hp
  cases p <;> simp [Keeps] at hp ⊢

theorem setChannels_keeps (s : State) (lo hi : Nat) (f : Channel → Channel) :
    KeepsAllBut [.channels] s (s.setChannels lo hi f) := by
  intro p hp
  cases p <;> simp [Keeps] at hp ⊢

theorem setHalted_keeps (s : State) : KeepsAllBut [.halted] s s.setHalted := by
  intro p hp
  cases p <;> simp [Keeps] at hp ⊢

/-- The mode byte of `resetScript` by its number (44_channel_ops R221). -/
theorem resetMode_eq (m : Byte) (ch : Channel) :
    resetMode m ch =
      if m.toNat = 0 then { ch with pendPaused := false }
      else if m.toNat = 1 then { ch with pendPaused := true }
      else if m.toNat = 2 then { ch with pendOff := 0xFFFE }
      else ch := by
  have hone : m = 1 ↔ m.toNat = 1 := BitVec.toNat_inj.symm
  have htwo : m = 2 ↔ m.toNat = 2 := BitVec.toNat_inj.symm
  simp only [resetMode, hone, htwo]
  generalize m.toNat = n
  match n with
  | 0 | 1 | 2 => rfl
  | n + 3 => simp

theorem rangeInverted_iff (first lastEncoded : Byte) :
    rangeInverted first lastEncoded = true ↔ lastChannel lastEncoded < first.toNat := by
  simp [rangeInverted]

/-- The whole effect of `resetScript` with its mode byte; an inverted range holds no row. -/
theorem exec_resetScript_effect (first le m : Byte) (s : State) :
    ∃ t, exec (.resetScript first le (some m)) s = .next t ∧
      (∀ k : Fin 64, t.channel k =
        if first.toNat ≤ k.val ∧ k.val ≤ lastChannel le then resetMode m (s.channel k) else s.channel k) ∧
      t.pc = s.pc + 4 ∧ KeepsAllBut [.channels, .pc] s t := by
  by_cases hinv : rangeInverted first le = true
  · refine ⟨_, if_pos hinv, fun k => ?_, rfl, (after_keeps s _).mono (by simp)⟩
    rw [rangeInverted_iff] at hinv
    rw [if_neg (by omega), after_channel]
  · exact ⟨_, if_neg hinv, setChannels_channel _ _ _ _, rfl, (after_keeps s _).trans (setChannels_keeps _ _ _ _)⟩

/-- Without its mode byte `resetScript` moves the cursor only. -/
theorem exec_resetScript_none (first le : Byte) (s : State) :
    exec (.resetScript first le none) s = .next (s.after (.resetScript first le none)) := by
  rcases execResetScript_cases first le none s with h | ⟨b, hb, -⟩
  · exact h
  · cases hb

end Sys2Proof.Machine
end

section
/-! The statements of 44_channel_ops. -/

namespace Sys2Proof.Machine

/-- Settles O27: the row is named by the channel byte's number. -/
theorem setVecRequestsAnOffset : Obligations.SetVecRequestsAnOffset := by
  unfold Obligations.SetVecRequestsAnOffset
  intro c h l s
  refine ⟨Spells.of_decode rfl fun _ _ _ => rfl, fun hc => ?requested, fun hc => dif_neg (Nat.not_lt.2 hc)⟩
  case requested =>
    refine ⟨_, dif_pos hc, fun k => ?_, rfl, (after_keeps s _).trans (setChannel_keeps _ _ _)⟩
    by_cases hk : k = ⟨c.toNat, hc⟩
    · subst hk
      simp [Channel.request]
    · have hval : k.val ≠ c.toNat := fun heq => hk (Fin.ext heq)
      simp [hk, hval]

/-- Settles O28: with the mode byte, the rows of the range by `resetMode_eq`; without it, the cursor only, and the
parameter leaves the byte out exactly where the range is inverted. -/
theorem resetScriptSetsTheRange : Obligations.ResetScriptSetsTheRange := by
  unfold Obligations.ResetScriptSetsTheRange
  intro first le s
  refine ⟨fun m => ⟨Spells.of_decode rfl fun cfg rest hwf => ?decodeLong, ?effect⟩,
    Spells.of_decode rfl fun cfg rest hwf => ?decodeShort, ⟨?inverted, ?short⟩,
    _, exec_resetScript_none first le s, rfl, after_keeps s _⟩
  case decodeLong => exact decodeOfEncodeGivesTheInstruction cfg (.resetScript first le (some m)) rest hwf
  case decodeShort => exact decodeOfEncodeGivesTheInstruction cfg (.resetScript first le none) rest hwf
  case effect =>
    obtain ⟨t, hexec, hrows, hpc, hframe⟩ := exec_resetScript_effect first le m s
    refine ⟨t, hexec, fun k => ?_, hpc, hframe⟩
    rw [hrows, lastChannel_eq, resetMode_eq]
  case inverted =>
    rintro ⟨cfg, hwf⟩
    rw [← lastChannel_eq, ← rangeInverted_iff]
    simp only [Instr.wellFormed, omitsMode, Option.isNone_none, beq_iff_eq] at hwf
    exact (Bool.and_eq_true_iff.1 hwf.symm).2
  case short =>
    intro hlast
    rw [← lastChannel_eq, ← rangeInverted_iff] at hlast
    exact ⟨{ Config.default with resetScriptShortOnInverted := true }, by simp [Instr.wellFormed, omitsMode, hlast]⟩

/-- Settles O29: the turn's end stores the cursor (`turnEndStoresTheCursor`), which stands after the `break`. -/
theorem breakYieldsAfterItself : Obligations.BreakYieldsAfterItself := by
  unfold Obligations.BreakYieldsAfterItself
  refine ⟨Spells.of_decode rfl fun _ _ _ => rfl, fun s => ⟨_, rfl, rfl, rfl,
    (after_keeps s _).trans (setHalted_keeps _), fun hc hphase hnone => ?_⟩⟩
  obtain ⟨u, hstep, hrows, -, hselect, -⟩ := turnEndStoresTheCursor _ hc hphase rfl hnone
  exact ⟨u, hstep, by rw [hrows, if_pos rfl]; rfl, hselect⟩

/-- Settles O30: the turn's end stores the sentinel the `halt` left in the cursor. -/
theorem haltUnschedules : Obligations.HaltUnschedules := by
  unfold Obligations.HaltUnschedules
  refine ⟨Spells.of_decode rfl fun _ _ _ => rfl, fun s => ⟨_, rfl, rfl, rfl,
    (jump_keeps s _).trans (setHalted_keeps _), fun hc hphase hnone => ?_⟩⟩
  obtain ⟨u, hstep, hrows, -, hselect, -⟩ := turnEndStoresTheCursor _ hc hphase rfl hnone
  exact ⟨u, hstep, by rw [hrows, if_pos rfl]; rfl, hselect⟩

end Sys2Proof.Machine
end

/-! # The collaborator and draw instructions (45_collaborator_ops, 41_draw_polygon) -/

section
/-! SUPPORT. Waiting for a flip, and the numbers the draw commands carry. -/

namespace Sys2Proof.Machine

theorem withPhase_keeps (s : State) (p : Phase) : KeepsAllBut [.phase] s { s with phase := p } := by
  intro q hq
  cases q <;> simp [Keeps, State.reg, State.channel, State.slot] at hq ⊢

theorem waitStep_keeps (s : State) (flipDone : Bool) : KeepsAllBut [.phase] s (s.waitStep flipDone) := by
  cases flipDone with
  | false => exact withPhase_keeps s s.phase
  | true => exact withPhase_keeps s .exec

theorem step_of_waitFlip {s : State} (hphase : s.phase = .waitFlip) (hnone : s.acceptedCommand = none) :
    step s = .next (s.tookInput.waitStep s.input.flipDone) := by
  rw [step_of_none hnone]
  simp [State.coreStep, hphase]

theorem doubled_toNat (half : Word) : (doubled half).toNat = half.toNat * 2 % 65536 := BitVec.toNat_ofNat _ _

/-- A number below 2^15 is the integer of its pattern. -/
theorem ofNat_toInt_of_lt {n : Nat} (h : n < 32768) : (BitVec.ofNat 16 n).toInt = n := by
  have hnat : (BitVec.ofNat 16 n).toNat = n := by rw [BitVec.toNat_ofNat]; omega
  rw [BitVec.toInt_eq_toNat_of_lt (by omega), hnat]

/-- The excess of `y` over 199 goes to `x` (41_draw_polygon R170). -/
theorem clampedX_toInt (x y : Byte) : (clampedX x y).toInt = (x.toNat : Int) + max ((y.toNat : Int) - 199) 0 := by
  have hx := x.isLt
  have hy := y.isLt
  have hexcess : clampExcess y = y.toNat - 199 := rfl
  rw [clampedX, ofNat_toInt_of_lt (by omega)]
  omega

theorem clampedY_toInt (y : Byte) : (clampedY y).toInt = min (y.toNat : Int) 199 := by
  have hy := y.isLt
  have hclamp : yClamp = 199 := rfl
  rw [clampedY, ofNat_toInt_of_lt (by omega)]
  omega

/-- A pattern's number is its integer modulo 65536 (00_scope R10). -/
theorem toNat_eq_toInt_emod (w : Word) : (w.toNat : Int) = w.toInt % 65536 := by
  have hw := w.isLt
  rw [BitVec.toInt_eq_toNat_cond]
  split <;> omega

/-- `NONE2` is the zoom mode of exactly the opcode bytes with both low bits set (30_encoding R103). -/
theorem eq_none2_iff {z : Operand} {op : Byte} (h : z.mode = zoomMode op) : z = .none2 ↔ op.toNat % 4 = 3 := by
  have hmode : z = .none2 ↔ z.mode = .none2 := by cases z <;> simp [Operand.mode]
  have hdigit : op.toNat % 4 < 4 := Nat.mod_lt _ (by decide)
  rw [hmode, h, zoomMode_eq]
  generalize op.toNat % 4 = digit at hdigit
  revert digit
  decide

end Sys2Proof.Machine
end

section
/-! The statements of 45_collaborator_ops and 41_draw_polygon. -/

namespace Sys2Proof.Machine

/-- Settles O32: the command carries the word's high byte, which is the first operand byte. -/
theorem setPaletteSendsTheHighByte : Obligations.SetPaletteSendsTheHighByte := by
  unfold Obligations.SetPaletteSendsTheHighByte
  intro h l s
  obtain ⟨t, hexec, hcommands, hrest⟩ := exec_effect_of_emit (i := .setPalette (wordOf h l)) (s := s) rfl
  rw [highByte_wordOf] at hcommands
  exact ⟨Spells.of_decode rfl fun _ _ _ => rfl, t, hexec, hcommands, hrest⟩

/-- Settles O33: one record with the parameter's register, read in the state before. -/
theorem copyPageSendsTheScrollRegister : Obligations.CopyPageSendsTheScrollRegister := by
  unfold Obligations.CopyPageSendsTheScrollRegister
  intro src dst s
  exact ⟨Spells.of_decode rfl fun _ _ _ => rfl, exec_effect_of_emit (i := .copyPage src dst) rfl⟩

/-- Settles O34: the command is emitted and then the phase set. -/
theorem updateDisplayIssuesFlipAndWaits : Obligations.UpdateDisplayIssuesFlipAndWaits := by
  unfold Obligations.UpdateDisplayIssuesFlipAndWaits
  intro p s
  exact ⟨Spells.of_decode rfl fun _ _ _ => rfl, _, rfl, rfl, rfl, rfl,
    (((after_keeps s _).trans (emit_keeps _ _)).trans (withPhase_keeps _ _)).mono (by simp)⟩

/-- Settles O35: the waiting step writes the phase at most (`waitStep_keeps`), the idle step nothing. -/
theorem flipDoneResumesTheTurn : Obligations.FlipDoneResumesTheTurn := by
  unfold Obligations.FlipDoneResumesTheTurn
  refine ⟨fun s hphase hnone => ⟨_, step_of_waitFlip hphase hnone, ?phase,
    (tookInput_keeps s).trans (waitStep_keeps _ _)⟩, fun s hphase hnone =>
    ⟨_, step_of_idle hphase hnone, tookInput_keeps s⟩⟩
  case phase => rw [waitStep_phase, tookInput_phase, hphase]

/-- Settles O36: each of the three decodes by its format and emits its operands in the record's order. -/
theorem stringSoundAndMusicSendTheirOperands : Obligations.StringSoundAndMusicSendTheirOperands := by
  unfold Obligations.StringSoundAndMusicSendTheirOperands
  refine ⟨fun h l x y k s => ?drawString, fun h l f v c s => ?playSound, fun h l h' l' p s => ?playMusic⟩
  case drawString =>
    exact ⟨Spells.of_decode rfl fun _ _ _ => rfl, exec_effect_of_emit (i := .drawString (wordOf h l) x y k) rfl⟩
  case playSound =>
    exact ⟨Spells.of_decode rfl fun _ _ _ => rfl, exec_effect_of_emit (i := .playSound (wordOf h l) f v c) rfl⟩
  case playMusic =>
    exact ⟨Spells.of_decode rfl fun _ _ _ => rfl,
      exec_effect_of_emit (i := .playMusic (wordOf h l) (wordOf h' l') p) rfl⟩

/-- Settles O37: the byte pair is 0x8000 above the half-offset, which the doubling modulo 65536 loses. -/
theorem drawPolygonLClampsY : Obligations.DrawPolygonLClampsY := by
  unfold Obligations.DrawPolygonLClampsY
  intro op b x y half s hpair
  refine ⟨Spells.of_decode rfl fun _ rest _ => decode_drawPolygonL hpair x y rest, ?effect⟩
  obtain ⟨t, hexec, hcommands, hrest⟩ := exec_effect_of_emit (i := .drawPolygonL half x y) (s := s) rfl
  refine ⟨t, _, _, _, hexec, hcommands, ?offset, clampedX_toInt x y, clampedY_toInt y, hrest⟩
  case offset =>
    have hhalf := half.isLt
    rw [doubled_toNat, BitVec.toNat_setWidth]
    omega

/-- Settles O38: the bytes decode by `decode_drawPolygonS`, each operand's value is `resolve_toInt`, and the length is
the one the mode fields give. -/
theorem drawPolygonSResolvesItsOperands : Obligations.DrawPolygonSResolvesItsOperands := by
  unfold Obligations.DrawPolygonSResolvesItsOperands
  intro op h l x y z s htier hx hy hz
  rw [← xMode_eq] at hx
  rw [← yMode_eq] at hy
  rw [← zoomMode_eq] at hz
  refine ⟨Spells.of_decode ?length fun cfg rest _ => ?decode, ?effect⟩
  case length =>
    simp [Instr.length, Laws.EncodedLength.operand_bytes]
    omega
  case decode =>
    have := decode_drawPolygonS (cfg := cfg) htier hx hy hz h l rest
    simpa using this
  case effect =>
    obtain ⟨t, hexec, hcommands, hpc, hframe⟩ :=
      exec_effect_of_emit (i := .drawPolygonS (wordOf h l) x y z) (s := s) rfl
    rw [decide_eq_decide.2 (eq_none2_iff hz)] at hcommands
    rw [drawPolygonS_length hx hy hz] at hpc
    refine ⟨t, _, _, _, _, hexec, hcommands, by rw [doubled_toNat, wordOf_toNat], resolve_toInt s x, resolve_toInt s y,
      ?zoom, hpc, hframe⟩
    rw [toNat_eq_toInt_emod, resolve_toInt]

end Sys2Proof.Machine
end

/-! # The scheduler: commands, quit, and a `RUN` with nothing to run (40_scheduler R132 to R142) -/

section
/-! SUPPORT. Frames of the scheduler's commands, and the steps of a quiet host. -/

namespace Sys2Proof.Machine

variable {s t : State}

theorem restartAt_keeps (s : State) (e : Word) : KeepsAllBut [.channels] s (s.restartAt e) := by
  intro p hp
  cases p <;> simp [Keeps] at hp ⊢

theorem startRun_keeps (s : State) : KeepsAllBut [.cur, .phase] s s.startRun := by
  intro p hp
  cases p <;> simp [Keeps] at hp ⊢

theorem persist_keeps (s : State) (c : Fin 64) : KeepsAllBut [.channels] s (s.persist c) := setChannel_keeps s c _

/-- An update of the rows that leaves each row as it was changes nothing. -/
theorem keeps_of_same_rows (h : KeepsAllBut [.channels] s t) (hrows : ∀ c, t.channel c = s.channel c) :
    KeepsAllBut [] s t := by
  intro p _
  by_cases hp : p = .channels
  · subst hp; exact hrows
  · exact h p (by simpa using hp)

/-- A row once committed has nothing more to commit (40_scheduler R133). -/
theorem Channel.commit_commit (ch : Channel) : ch.commit.commit = ch.commit := rfl

/-- Quit is sampled after the halted flag (60_exceptions R257). -/
theorem step_of_quit (hphase : s.phase = .exec) (hhalted : s.halted = false) (hnone : s.acceptedCommand = none)
    (hquit : s.input.quit = true) : step s = s.tookInput.abortTurn := by
  rw [step_of_none hnone]
  simp [State.coreStep, State.execStep, hphase, hhalted, hquit]

/-! ### A host that has nothing more to say (assumption 1) -/

theorem input_of_silent (h : s.host = []) : s.input = .quiet := by
  rw [State.input, h]
  rfl

theorem acceptedCommand_of_silent (h : s.host = []) : s.acceptedCommand = none := by
  rw [State.acceptedCommand, input_of_silent h]
  rfl

theorem tookInput_of_silent (h : s.host = []) : s.tookInput = s := by
  have htail : s.host.tail = s.host := by rw [h]; rfl
  rw [State.tookInput, htail]

theorem step_of_select_silent (hphase : s.phase = .select) (h : s.host = []) :
    step s = .next (s.selectStep false) := by
  rw [step_of_select hphase (acceptedCommand_of_silent h), tookInput_of_silent h, input_of_silent h]
  rfl

/-! ### The channel index -/

/-- Choosing the next turn leaves the channel index or raises it by one (40_scheduler R135). -/
theorem selectStep_cur (s : State) (quit : Bool) :
    (s.selectStep quit).cur = s.cur ∨ (s.selectStep quit).cur.val = s.cur.val + 1 := by
  rcases selectStep_cases s quit with ⟨-, h⟩ | ⟨_, ⟨-, h⟩ | ⟨-, -, h⟩ | ⟨-, -, h⟩⟩ <;> rw [h]
  · exact .inl rfl
  · exact .inl rfl
  · exact .inl rfl
  · exact .inr rfl

theorem exec_cur {i : Instr} (h : exec i s = .next t) : t.cur = s.cur := by
  rcases exec_next h with ⟨cause, rfl, -⟩ | ⟨-, -, hcur, -⟩
  · exact raise_cur s cause
  · exact hcur

/-- A step of the core's own moves the channel index by one at most, in `SELECT` or at a turn's end. -/
theorem step_cur_of_none (h : step s = .next t) (hnone : s.acceptedCommand = none) :
    t.cur = s.cur ∨ ((s.phase = .select ∨ s.phase = .exec) ∧ t.cur.val = s.cur.val + 1) := by
  rcases step_cases h with ⟨c, hc, -⟩ | ⟨-, ⟨-, rfl⟩ | ⟨-, rfl⟩ | ⟨hphase, rfl⟩ | ⟨-, rfl⟩ |
    ⟨hphase, -, hend⟩ | ⟨-, -, -, habort⟩ | ⟨-, -, -, ⟨i, -, hexec⟩ | ⟨a, -, rfl⟩⟩⟩
  · simp [hnone] at hc
  · exact .inl rfl
  · exact .inl rfl
  · exact (selectStep_cur s.tookInput _).imp_right fun hcur => ⟨.inl hphase, hcur⟩
  · exact .inl (waitStep_keeps s.tookInput _ .cur (by simp))
  · obtain ⟨_, rfl⟩ := endTurn_next hend
    exact .inr ⟨.inr hphase, rfl⟩
  · obtain ⟨_, rfl⟩ := abortTurn_next habort
    exact .inl rfl
  · exact .inl (exec_cur (s := s.tookInput) hexec)
  · exact .inl rfl

end Sys2Proof.Machine
end

section
/-! The statements of 40_scheduler about its commands, quit and the order of channels. -/

namespace Sys2Proof.Machine

/-- Settles O40: the second `SETUP` commits rows that are committed (`Channel.commit_commit`). -/
theorem setupTwiceIsSetupOnce : Obligations.SetupTwiceIsSetupOnce := by
  unfold Obligations.SetupTwiceIsSetupOnce
  intro s t u hs hstep ht hstep'
  rw [step_of_accepted hs] at hstep
  rw [step_of_accepted ht] at hstep'
  cases hstep
  cases hstep'
  have hrows (c : Fin 64) :
      s.tookInput.setup.tookInput.setup.channel c = s.tookInput.setup.tookInput.channel c := by
    rw [setup_channel, tookInput_channel, setup_channel, Channel.commit_commit]
  exact (tookInput_keeps s.tookInput.setup).trans (keeps_of_same_rows (setup_keeps _) hrows)

/-- Settles O41: `restartAt_channel` gives every row. -/
theorem restartAtSchedulesChannelZero : Obligations.RestartAtSchedulesChannelZero := by
  unfold Obligations.RestartAtSchedulesChannelZero
  intro s e h
  refine ⟨_, step_of_accepted h, fun c => ?row, (tookInput_keeps s).trans (restartAt_keeps _ e)⟩
  case row =>
    rw [restartAt_channel]
    split_ifs <;> rfl

/-- Settles O42: `FRAME` is `SETUP` and then `RUN` on the state that took its input. -/
theorem runAndFrameStartAtChannelZero : Obligations.RunAndFrameStartAtChannelZero := by
  unfold Obligations.RunAndFrameStartAtChannelZero
  refine ⟨fun s h => ?run, fun s h => ?frame⟩
  case run => exact ⟨_, step_of_accepted h, rfl, rfl, (tookInput_keeps s).trans (startRun_keeps _)⟩
  case frame =>
    exact ⟨_, step_of_accepted h, rfl, rfl, fun _ => rfl,
      (((tookInput_keeps s).trans (setup_keeps _)).trans (startRun_keeps _)).mono (by simp)⟩

/-- Settles O45: the step is the turn's abort, which stores the cursor and ends the `RUN` (`abortTurn_of_lt`). -/
theorem quitInsideATurnEndsTheRun : Obligations.QuitInsideATurnEndsTheRun := by
  unfold Obligations.QuitInsideATurnEndsTheRun
  intro s hc hphase hhalted hnone hquit
  rw [step_of_quit hphase hhalted hnone hquit, abortTurn_of_lt (s := s.tookInput) hc]
  exact ⟨_, rfl, persist_channel_of_val s.tookInput ⟨s.cur.val, hc⟩, rfl, rfl,
    (((tookInput_keeps s).trans (persist_keeps _ _)).trans (endRun_keeps _ _)).mono (by simp)⟩

/-- Settles O46, by induction on the channels left: each is passed (`selectStep_of_not_runnable`), and past the last
the `RUN` is done. -/
theorem runWithNothingRunnableEndsDone : Obligations.RunWithNothingRunnableEndsDone := by
  unfold Obligations.RunWithNothingRunnableEndsDone
  intro n
  induction n with
  | zero =>
    intro s hphase hcur hsilent _
    have hstep : step s = .next (s.endRun .done) := by
      rw [step_of_select_silent hphase hsilent, selectStep_of_end hcur]
    exact ⟨_, run_of_next hstep, rfl, rfl, hcur, (endRun_keeps s .done).mono (by simp)⟩
  | succ n ih =>
    intro s hphase hcur hsilent hrows
    have hc : s.cur.val < 64 := by omega
    have hpassed := Channel.runnable_eq_false_iff.2 (hrows ⟨s.cur.val, hc⟩)
    have hstep : step s = .next { s with cur := nextChannel ⟨s.cur.val, hc⟩ } := by
      rw [step_of_select_silent hphase hsilent, selectStep_of_not_runnable hc hpassed]
    have hnext : (nextChannel ⟨s.cur.val, hc⟩).val = s.cur.val + 1 := rfl
    obtain ⟨t, hrun, hidle, hdone, hend, hframe⟩ :=
      ih { s with cur := nextChannel ⟨s.cur.val, hc⟩ } hphase (by rw [hnext]; omega) hsilent hrows
    exact ⟨t, (run_of_next hstep).trans hrun, hidle, hdone, hend,
      ((withCur_keeps s _).trans hframe).mono (by simp)⟩

/-- Settles O49, by what a step of the core's own does to the index (`step_cur_of_none`). -/
theorem channelsAreVisitedInAscendingOrder : Obligations.ChannelsAreVisitedInAscendingOrder := by
  unfold Obligations.ChannelsAreVisitedInAscendingOrder
  intro s t hstep hnone
  rcases step_cur_of_none hstep hnone with hsame | ⟨hphase, hraised⟩
  · rw [hsame]
    exact ⟨le_rfl, Nat.le_succ _, fun hne => absurd rfl hne⟩
  · exact ⟨by omega, by omega, fun _ => hphase⟩

end Sys2Proof.Machine
end

/-! # The Register File and the command stream over every step (10_state R23, 20_memory R71) -/

section
/-! SUPPORT. What an instruction, a command and a step can do to a register, and to the command stream. -/

namespace Sys2Proof.Machine

variable {s t : State}

/-! ### Registers -/

/-- A register write is seen in its destination only. -/
theorem setReg_reg_cases (s : State) (d : RegIx) (v : Word) (q : RegIx) :
    (s.setReg d v).reg q = s.reg q ∨ some d = some q := by
  by_cases h : q = d
  · exact .inr (by rw [h])
  · exact .inl (by rw [setReg_reg, if_neg h])

/-- An instruction leaves every register but its destination. -/
theorem exec_reg {i : Instr} (h : exec i s = .next t) (q : RegIx) : t.reg q = s.reg q ∨ destination i = some q := by
  cases i with
  | call x =>
    rcases execCall_cases x s with ⟨-, hx⟩ | ⟨-, hx⟩ <;> rw [exec, hx] at h <;> cases h <;> exact .inl rfl
  | ret =>
    rcases execRet_cases s with ⟨-, hx⟩ | ⟨-, hx⟩ <;> rw [exec, hx] at h <;> cases h <;> exact .inl rfl
  | setVec c o =>
    rcases execSetVec_cases c o s with ⟨-, hx⟩ | ⟨_, hx⟩ <;> rw [exec, hx] at h <;> cases h <;> exact .inl rfl
  | resetScript f l m =>
    rcases execResetScript_cases f l m s with hx | ⟨b, rfl, -, hx⟩ <;> rw [exec, hx] at h <;> cases h <;>
      exact .inl rfl
  | condJmp c r right x =>
    obtain ⟨u, hexec, hframe, -⟩ := exec_condJmp c r right x s
    cases hexec.symm.trans h
    exact .inl (hframe .regs (by simp) q)
  | jnz r x =>
    obtain ⟨u, hexec, -, hreg, -, -⟩ := exec_jnz_effect s r x
    cases hexec.symm.trans h
    by_cases hq : q = r
    · exact .inr (congrArg some hq.symm)
    · exact .inl (hreg q hq)
  | movConst | mov | add | addConst | sub | and | or | shl | shr => cases h; exact setReg_reg_cases _ _ _ q
  | _ => cases h; exact .inl rfl

theorem selectStep_reg (s : State) (quit : Bool) (q : RegIx) : (s.selectStep quit).reg q = s.reg q := by
  rcases selectStep_cases s quit with ⟨-, h⟩ | ⟨_, ⟨-, h⟩ | ⟨-, -, h⟩ | ⟨-, -, h⟩⟩ <;> rw [h] <;> rfl

/-- The commands that write a register (40_scheduler R143, R144, 70_reset_and_hazards R290). -/
def HostCommand.writesReg (c : HostCommand) (q : RegIx) : Prop :=
  (∃ v, c = .regWrite q v) ∨ (∃ regs table, c = .stateLoad regs table) ∨ c = .reset

theorem perform_reg {c : HostCommand} (h : s.perform c = .next t) (q : RegIx) :
    t.reg q = s.reg q ∨ c.writesReg q := by
  cases c with
  | reset => exact .inr (.inr (.inr rfl))
  | stateLoad regs table => exact .inr (.inr (.inl ⟨regs, table, rfl⟩))
  | regWrite r v =>
    cases h
    refine (setReg_reg_cases s r v q).imp_right fun hr => ?_
    cases hr
    exact .inl ⟨v, rfl⟩
  | codeInstall bytes => obtain ⟨-, rfl⟩ := installCode_next h; exact .inl rfl
  | _ => cases h; exact .inl rfl

/-- Everything a step can do to a register. -/
theorem step_reg (h : step s = .next t) (q : RegIx) :
    t.reg q = s.reg q ∨ (s.ready ∧ ∃ i, s.fetch = .ok i ∧ destination i = some q) ∨
    ∃ c, s.acceptedCommand = some c ∧ c.writesReg q := by
  rcases step_cases h with ⟨c, hc, hperform⟩ | ⟨hnone, ⟨-, rfl⟩ | ⟨-, rfl⟩ | ⟨-, rfl⟩ | ⟨-, rfl⟩ |
    ⟨-, -, hend⟩ | ⟨-, -, -, habort⟩ | ⟨hphase, hhalted, hquit, ⟨i, hfetch, hexec⟩ | ⟨a, -, rfl⟩⟩⟩
  · exact (perform_reg hperform q).imp_right fun hw => .inr ⟨c, hc, hw⟩
  · exact .inl rfl
  · exact .inl rfl
  · exact .inl (selectStep_reg ..)
  · exact .inl (waitStep_keeps s.tookInput _ .regs (by simp) q)
  · obtain ⟨_, rfl⟩ := endTurn_next hend
    exact .inl rfl
  · obtain ⟨_, rfl⟩ := abortTurn_next habort
    exact .inl rfl
  · exact (exec_reg hexec q).imp_right fun hd => .inl ⟨⟨hphase, hhalted, hnone, hquit⟩, i, hfetch, hd⟩
  · exact .inl rfl

/-! ### The command stream -/

/-- At most one record is appended, and none dropped (20_memory R71). -/
def AppendsAtMostOne (s t : State) : Prop := ∃ new, t.commands = s.commands ++ new ∧ new.length ≤ 1

theorem AppendsAtMostOne.of_same (h : t.commands = s.commands) : AppendsAtMostOne s t :=
  ⟨[], by rw [h, List.append_nil], Nat.zero_le _⟩

theorem AppendsAtMostOne.of_one {c : Command} (h : t.commands = s.commands ++ [c]) : AppendsAtMostOne s t :=
  ⟨[c], h, le_rfl⟩

/-- Each collaborator instruction appends its one record, the others none. -/
theorem exec_appends {i : Instr} (h : exec i s = .next t) : AppendsAtMostOne s t := by
  cases i with
  | call x =>
    rcases execCall_cases x s with ⟨-, hx⟩ | ⟨-, hx⟩ <;> rw [exec, hx] at h <;> cases h <;> exact .of_same rfl
  | ret =>
    rcases execRet_cases s with ⟨-, hx⟩ | ⟨-, hx⟩ <;> rw [exec, hx] at h <;> cases h <;> exact .of_same rfl
  | setVec c o =>
    rcases execSetVec_cases c o s with ⟨-, hx⟩ | ⟨_, hx⟩ <;> rw [exec, hx] at h <;> cases h <;> exact .of_same rfl
  | resetScript f l m =>
    rcases execResetScript_cases f l m s with hx | ⟨b, rfl, -, hx⟩ <;> rw [exec, hx] at h <;> cases h <;>
      exact .of_same rfl
  | condJmp c r right x =>
    obtain ⟨u, hexec, hframe, -⟩ := exec_condJmp c r right x s
    cases hexec.symm.trans h
    exact .of_same (hframe .commands (by simp))
  | jnz r x =>
    obtain ⟨u, hexec, -, -, -, hframe⟩ := exec_jnz_effect s r x
    cases hexec.symm.trans h
    exact .of_same (hframe .commands (by simp))
  | setPalette | selectPage | fillPage | copyPage | updateDisplay | drawString | playSound | updateMemList | playMusic
  | drawPolygonS | drawPolygonL => cases h; exact .of_one rfl
  | _ => cases h; exact .of_same rfl

theorem selectStep_commands (s : State) (quit : Bool) : (s.selectStep quit).commands = s.commands := by
  rcases selectStep_cases s quit with ⟨-, h⟩ | ⟨_, ⟨-, h⟩ | ⟨-, -, h⟩ | ⟨-, -, h⟩⟩ <;> rw [h] <;> rfl

/-- No host command touches the stream but `RESET`. -/
theorem perform_commands {c : HostCommand} (h : s.perform c = .next t) (hreset : c ≠ .reset) :
    t.commands = s.commands := by
  cases c with
  | reset => exact absurd rfl hreset
  | codeInstall bytes => obtain ⟨-, rfl⟩ := installCode_next h; rfl
  | _ => cases h; rfl

end Sys2Proof.Machine
end

section
/-! The statements of 10_state R23 and 20_memory R71. -/

namespace Sys2Proof.Machine

/-- Settles O50, from what an instruction (`exec_reg`) and a step (`step_reg`) can do to a register. -/
theorem onlyTheDestinationRegisterChanges : Obligations.OnlyTheDestinationRegisterChanges := by
  unfold Obligations.OnlyTheDestinationRegisterChanges
  refine ⟨fun i s t r hexec hchanged => (exec_reg hexec r).resolve_left hchanged, fun s t r hstep hchanged => ?_⟩
  rcases (step_reg hstep r).resolve_left hchanged with hinstr | ⟨c, hc, ⟨v, rfl⟩ | ⟨regs, table, rfl⟩ | rfl⟩
  · exact .inl hinstr
  · exact .inr (.inl ⟨v, hc⟩)
  · exact .inr (.inr (.inl ⟨regs, table, hc⟩))
  · exact .inr (.inr (.inr hc))

/-- Settles O51, by cases on what the step did: only an instruction appends (`exec_appends`). -/
theorem commandStreamOnlyGrows : Obligations.CommandStreamOnlyGrows := by
  unfold Obligations.CommandStreamOnlyGrows
  intro s t hstep hreset
  change AppendsAtMostOne s t
  rcases step_cases hstep with ⟨c, hc, hperform⟩ | ⟨-, ⟨-, rfl⟩ | ⟨-, rfl⟩ | ⟨-, rfl⟩ | ⟨-, rfl⟩ |
    ⟨-, -, hend⟩ | ⟨-, -, -, habort⟩ | ⟨-, -, -, ⟨i, -, hexec⟩ | ⟨a, -, rfl⟩⟩⟩
  · exact .of_same (perform_commands (s := s.tookInput) hperform fun heq => hreset (hc.trans (congrArg some heq)))
  · exact .of_same rfl
  · exact .of_same rfl
  · exact .of_same (selectStep_commands ..)
  · exact .of_same (waitStep_keeps s.tookInput _ .commands (by simp))
  · obtain ⟨_, rfl⟩ := endTurn_next hend
    exact .of_same rfl
  · obtain ⟨_, rfl⟩ := abortTurn_next habort
    exact .of_same rfl
  · exact exec_appends (s := s.tookInput) hexec
  · exact .of_same rfl

end Sys2Proof.Machine
end

/-! # The host port (40_scheduler R130, R143 to R145, 70_reset_and_hazards R290) -/

section
/-! SUPPORT. When a command is accepted, and the frames of the commands that read or write state. -/

namespace Sys2Proof.Machine

variable {s : State}

theorem acceptedIn_idle (c : HostCommand) : c.acceptedIn .idle = true := by
  cases c <;> rfl

/-- Inside a `RUN` only `RESET` is taken (40_scheduler R130). -/
theorem acceptedIn_running_iff {p : Phase} (h : p = .select ∨ p = .exec ∨ p = .waitFlip) (c : HostCommand) :
    c.acceptedIn p = true ↔ c = .reset := by
  have hidle : p ≠ .idle := by rcases h with rfl | rfl | rfl <;> nofun
  have hfaulted : p ≠ .faulted := by rcases h with rfl | rfl | rfl <;> nofun
  cases c <;> simp [HostCommand.acceptedIn, hidle, hfaulted]

/-- A command is accepted when it is offered in one of its phases. -/
theorem acceptedCommand_of_offered {c : HostCommand} (h : s.input.command = some c) :
    s.acceptedCommand = if c.acceptedIn s.phase = true then some c else none := by
  rw [State.acceptedCommand, h]
  rfl

/-- The core's own step depends on the input by its levels only. -/
theorem step_eq_of_levels {s' : State} (hs : s.acceptedCommand = none) (hs' : s'.acceptedCommand = none)
    (htook : s.tookInput = s'.tookInput) (hquit : s.input.quit = s'.input.quit)
    (hflip : s.input.flipDone = s'.input.flipDone) : step s = step s' := by
  rw [step_of_none hs, step_of_none hs', htook, hquit, hflip]

theorem loadState_keeps (s : State) (regs : Bank Word 256) (table : Bank Channel 64) :
    KeepsAllBut [.regs, .channels] s (s.loadState regs table) := by
  intro p hp
  cases p <;> simp [Keeps] at hp ⊢

theorem withCode_keeps (s : State) (c : CodeStore) : KeepsAllBut [.memory] s { s with code := c } := by
  intro p hp
  cases p <;> simp [Keeps, State.reg, State.channel, State.slot] at hp ⊢

/-- `RESET` leaves the core's state as at power-on. -/
theorem resetCore_keeps_reset (s : State) :
    KeepsAllBut [.stk, .memory, .config, .host, .replies] State.reset s.resetCore := by
  intro p hp
  cases p <;> simp [Keeps, State.reg, State.channel] at hp ⊢

/-- `RESET` keeps what is not state of the core (assumption 4). -/
theorem resetCore_keeps (s : State) : KeepsAllBut [.regs, .channels, .stk, .sp, .pc, .halted, .phase, .cur, .fault,
    .status, .commands] s s.resetCore := by
  intro p hp
  cases p <;> simp [Keeps] at hp ⊢

end Sys2Proof.Machine
end

section
/-! The statements of the host port. -/

namespace Sys2Proof.Machine

/-- Settles O53: the phases by cases on the command; a command that is not accepted leaves the core's own step,
which reads the input's levels only (`step_eq_of_levels`). -/
theorem unacceptedCommandsHaveNoEffect : Obligations.UnacceptedCommandsHaveNoEffect := by
  unfold Obligations.UnacceptedCommandsHaveNoEffect
  have offered {s : State} {c : HostCommand} {q f : Bool} {rest : List HostInput}
      (h : s.host = ⟨some c, q, f⟩ :: rest) : s.input = ⟨some c, q, f⟩ := by rw [State.input, h]; rfl
  refine ⟨acceptedIn_idle, fun c p hp => acceptedIn_running_iff hp c, acceptedIn_faulted_iff, ?accepted, ?ignored⟩
  case accepted =>
    intro s c q f rest hhost
    exact acceptedCommand_of_offered (by rw [offered hhost])
  case ignored =>
    intro s c q f rest hhost hno
    have hnone : s.acceptedCommand = none := by
      rw [acceptedCommand_of_offered (c := c) (by rw [offered hhost]), hno]
      rfl
    refine step_eq_of_levels hnone rfl ?_ (by rw [offered hhost]; rfl) (by rw [offered hhost]; rfl)
    rw [State.tookInput, hhost]
    rfl

/-- Settles O54: each command is one update of the state, with its frame. -/
theorem hostReadsAndWritesState : Obligations.HostReadsAndWritesState := by
  unfold Obligations.HostReadsAndWritesState
  refine ⟨fun s r v h => ?regWrite, fun s r h => ?regRead, fun s h => ?stateRead, fun s regs table h => ?stateLoad⟩
  case regWrite =>
    exact ⟨_, step_of_accepted h, by simp, fun q hq => by simp [hq], (tookInput_keeps s).trans (setReg_keeps _ r v)⟩
  case regRead => exact ⟨_, step_of_accepted h, rfl, (tookInput_keeps s).trans (reply_keeps _ _)⟩
  case stateRead => exact ⟨_, step_of_accepted h, rfl, (tookInput_keeps s).trans (reply_keeps _ _)⟩
  case stateLoad =>
    exact ⟨_, step_of_accepted h, rfl, rfl, (tookInput_keeps s).trans (loadState_keeps _ regs table)⟩

/-- Settles O55, by the laws of an installed Code Store. -/
theorem installedCodeReadsBack : Obligations.InstalledCodeReadsBack := by
  unfold Obligations.InstalledCodeReadsBack
  intro s bytes h
  refine ⟨fun hlen => ?installed, fun hlen => (step_of_accepted h).trans (if_neg (Nat.not_le.2 hlen))⟩
  case installed =>
    have hcount : (CodeStore.ofBytes bytes).len.toNat = bytes.length := by
      rw [CodeStore.ofBytes, BitVec.toNat_ofNat]
      omega
    exact ⟨_, (step_of_accepted h).trans (if_pos hlen), hcount, CodeStore.read_ofBytes hlen, CodeStore.ofBytes_wf hlen,
      (tookInput_keeps s).trans (withCode_keeps _ _)⟩

/-- Settles O56: power-on has the values by definition, and `RESET` is accepted in every phase
(`resetCore_keeps_reset`). -/
theorem resetLeavesTheListedValues : Obligations.ResetLeavesTheListedValues := by
  unfold Obligations.ResetLeavesTheListedValues
  refine ⟨⟨fun r => ?_, reset_channel, rfl, rfl, rfl, rfl, rfl, rfl, rfl, rfl, rfl⟩, fun s hoffered => ?_⟩
  · rw [State.int, reset_reg]
    rfl
  · have haccepted : s.acceptedCommand = some .reset := acceptedCommand_of_offered hoffered
    exact ⟨_, step_of_accepted haccepted, resetCore_keeps_reset _,
      ((tookInput_keeps s).trans (resetCore_keeps _)).mono (by simp)⟩

end Sys2Proof.Machine
end
